-- ==== Sys2Proof/Word.lean ====
section
/-! DEFINITION. Words, bytes and the index types of the block (spec/00_scope.md R9, R12, R17). -/

namespace Sys2Proof

/-- A 32-bit word: direction, output, input and pull words, queue entries, window registers (R9, R12). -/
abbrev Word := BitVec 32

/-- A byte of a report (R110, R111). -/
abbrev Byte := BitVec 8

/-- A controlled pin, by its PinSet ordinal 0 to 25 (R17 (2), R41). -/
abbrev Pin := Fin 26

/-- One value for each of the 26 pins of the PinSet, by ordinal (R41 to R44). -/
abbrev PinMap (α : Type) := Vector α 26

end Sys2Proof
end

