-- ==== Sys2Proof/Syntax.lean ====
section
/-! DEFINITION. The syntax of the block: its two instruction spaces (spec/30_encoding.md R100), the names of
its modes and reasons, and the operations and events by which HOST and ENV act on it. -/

namespace Sys2Proof

/-- A variable of the HOST program. `varT` is `t`, the scratch variable of the expansions of R116, `varX` and `varC`
are `x` and `c`, the result variables of the accesses and programs (R116, spec/95_test_vectors.md P1 to P4); the three `ls`
variables are the firmware's `LogicalState` (spec/10_state.md R61). Log entry 9. -/
inductive HostVar where
  | varT | varX | varC
  | lsDirection | lsOutput | lsInput
  deriving DecidableEq, Repr, Inhabited

/-- The value operand of a HOST write: "a literal or a HOST variable" (R116). -/
inductive HostVal where
  | lit (v : Word)
  | var (x : HostVar)
  deriving DecidableEq, Repr, Inhabited

/-- The instructions of the block, one constructor per row of spec/opcode_table.json: the five
micro-operations of SEQ (R103, R104) and the ten admitted HOST accesses (R107). A read carries its
destination variable, a write its data word (R107, R116). -/
inductive Instr where
  /-- `pull block` (R141) -/
  | pull
  /-- `out pindirs, 32` (R143) -/
  | outPindirs
  /-- `out pins, 32` (R145) -/
  | outPins
  /-- `in pins, 32` (R147) -/
  | inPins
  /-- `push block` (R149) -/
  | push
  /-- `rd x, CTRL` (R180) -/
  | ctrlRd (x : HostVar)
  /-- `wr CTRL, v` (R181) -/
  | ctrlWr (v : Word)
  /-- `rd x, STATUS` (R182) -/
  | statusRd (x : HostVar)
  /-- `wr TXF, v` (R184) -/
  | txfWr (v : Word)
  /-- `rd x, RXF` (R186) -/
  | rxfRd (x : HostVar)
  /-- `wr PULL_A, w` (R214) -/
  | pullAWr (w : Word)
  /-- `wr PULL_B, w` (R215) -/
  | pullBWr (w : Word)
  /-- `rd x, PULL_A` (R216) -/
  | pullARd (x : HostVar)
  /-- `rd x, PULL_B` (R217) -/
  | pullBRd (x : HostVar)
  /-- `rd x, PULL_CHG` (R218) -/
  | pullChgRd (x : HostVar)
  deriving DecidableEq, Repr, Inhabited

/-- The registers of the window (R51). -/
inductive Reg where
  | ctrl | status | txf | rxf | pullA | pullB | pullChg
  deriving DecidableEq, Repr, Inhabited

/-- The reasons of a refusal (spec/60_exceptions.md R302). A refusal is an effect the spec gives: it sets
`REFUSED` and names its reason; it does not stop the other agents. -/
inductive RefuseReason where
  /-- an access of 8, 16 or 64 bits (R74, R188 (1)) -/
  | badWidth
  /-- an offset that is no multiple of 4 (R73, R188 (2)) -/
  | misalignedAccess
  /-- offset 0x1C or above (R58, R188 (3)) -/
  | reservedOffset
  /-- a write to STATUS, RXF or PULL_CHG (R188 (4)) -/
  | writeReadOnly
  /-- a read of TXF (R188 (4)) -/
  | readWriteOnly
  /-- a CTRL write with any of bits 31:1 set (R181) -/
  | ctrlReservedBits
  /-- a CTRL write of EN = 0 while the sequencer runs (R181) -/
  | seqStop
  /-- SEQ fetched a word outside the admitted five (R104, R140) -/
  | unknownMicroword (step : BitVec 3) (word : BitVec 16)
  deriving DecidableEq, Repr, Inhabited

/-- The records of `FAULTS` (R301). A fault record is an effect the spec gives: it is added to `FAULTS` and the
access has no other effect. -/
inductive FaultRecord where
  /-- TXF written while TXQ was full, with the word that was not appended (R184) -/
  | txOverflow (v : Word)
  /-- RXF read while RXQ was empty (R186) -/
  | rxUnderflow
  deriving DecidableEq, Repr, Inhabited

/-- The four pull modes of a pad (R44, R112). -/
inductive PullMode where
  | none | up | down | keep
  deriving DecidableEq, Repr, Inhabited

/-- The external drive on a line (R42). -/
inductive Drive where
  /-- nothing outside drives the line -/
  | z
  /-- driven low from outside -/
  | d0
  /-- driven high from outside -/
  | d1
  deriving DecidableEq, Repr, Inhabited

/-- The two pull groups (R18, R211). -/
inductive Group where
  | a | b
  deriving DecidableEq, Repr, Inhabited

/-- `MAP_BUSY` when it is not `none`: group, pull word, next group-local index (R48). -/
structure MapJob where
  group : Group
  word : Word
  index : Fin 16
  deriving DecidableEq, Repr, Inhabited

/-- The fields of an Output Report, in the order of the wire format (R110). -/
structure OutputReport where
  direction : Word
  pullA : Word
  pullB : Word
  output : Word
  deriving DecidableEq, Repr, Inhabited

/-- An Input Report: four bytes, byte 0 first (R111). -/
abbrev InputReport := Vector Byte 4

/-- One operation of the HOST program (spec/43_host_protocol.md; R116). Log entry 24. -/
inductive HostOp where
  /-- a window access by its 13-bit access code (R107), with the destination of a read and the value of a
  write -/
  | access (code : BitVec 13) (x : HostVar) (v : HostVal)
  /-- a bus access at a host address and of a width in bits (R14, R188) -/
  | bus (write : Bool) (addr width : Nat) (x : HostVar) (v : HostVal)
  /-- `L: rd t, STATUS; if t[bit] = 1 goto L`, the wait of the expansions of R116 -/
  | waitStatus (bit : Nat)
  /-- `send v` (R190) -/
  | send (v : HostVal)
  /-- `recv x` (R191) -/
  | recv (x : HostVar)
  /-- `poll()` (R251) -/
  | poll
  /-- `try_pull_output()`, then `apply_output_report` of what it returned, if anything (R252, R265) -/
  | tryPullOutput
  /-- `apply_output_report(decode_output(b))` (R254, R255) -/
  | applyReport (b : Vector Byte 16)
  /-- `push_input(encode_input(LS.input))` (R262, R258) -/
  | pushInput
  deriving DecidableEq, Repr, Inhabited

/-- What ENV may do (R30, R42, R252, R263). -/
inductive EnvEvent where
  /-- change the external drive of the pins given a value, any subset of them (R42) -/
  | drive (change : PinMap (Option Drive))
  /-- the USB host sends an Output Report packet of these bytes (R252) -/
  | deliver (packet : List Byte)
  /-- the USB host fetches the waiting Input Report (R263) -/
  | fetch
  deriving DecidableEq, Repr, Inhabited

/-- The agent that takes a step (R30, R305), with what ENV does if it is ENV. -/
inductive Turn where
  | seq
  | map
  | host
  | env (e : EnvEvent)
  deriving DecidableEq, Repr, Inhabited

end Sys2Proof
end

