-- ==== Sys2Proof/Config.lean ====
section
/-! DEFINITION. What an implementation fixes (spec/00_scope.md R10) and the values the spec leaves free.
Nothing in Lean can evaluate one of the opaque constants below: a theorem holds for every value of them. -/

namespace Sys2Proof

/-- The parameters of R10 that rules read while the block runs. Each constraint of R10 holds by
construction: a depth is 1 to 255 (R10, R53), the divisor is at least 1, the base is 4-byte aligned. -/
structure Params where
  /-- `P_TXQ_DEPTH` less one -/
  txqDepthPred : Fin 255
  /-- `P_RXQ_DEPTH` less one -/
  rxqDepthPred : Fin 255
  /-- `P_CLKDIV` less one; no rule depends on it (R321) -/
  clkDivPred : Nat
  /-- `P_BLOCK_BASE` divided by 4 (R10, R76) -/
  blockBaseWord : Nat
  deriving DecidableEq, Repr, Inhabited

/-- The parameters of the block at hand. OPEN in the spec (spec/92_eei_decisions.md D7, D10, D32), so they are
free. Log entry 3. -/
opaque Config.params : Params

/-- `P_PULL_RESET`, the pull mode of each pad when the block leaves reset (R10, R44). OPEN in the spec (D20).
Log entry 4. -/
opaque Config.padPullReset : Pin → PullMode

/-- The level of each line when the block leaves reset: "a draw" (R43, D33). Log entry 5. -/
opaque Config.levelReset : Pin → Bool

/-- The external drive of each line when the block leaves reset: "a draw" (R42, D35). Log entry 5. -/
opaque Config.extReset : Pin → Drive

/-- The draws: bit `p` of word `n` is the bit drawn for physical pin `p` at the `n`-th resolution (R15, R151,
R147). `State.draws` counts the resolutions. Log entry 6. -/
opaque Config.draw : Nat → Word

/-- One round of turns: any turns at all, with one of SEQ, one of MAP and one of HOST among them. An infinite order of
turns is a sequence of rounds exactly when SEQ, MAP and HOST each have turns for ever in it. -/
structure Round where
  beforeSeq : List Turn
  beforeMap : List Turn
  beforeHost : List Turn
  deriving DecidableEq, Repr, Inhabited

/-- The turns of a round, in order. -/
def Round.turns (r : Round) : List Turn :=
  r.beforeSeq ++ .seq :: (r.beforeMap ++ .map :: (r.beforeHost ++ [.host]))

/-- The interleaving: the turns that no fixed turn decides, with what ENV does in its own, round by round (R30, R305).
It is any weakly fair order and no other: "an agent that has an enabled step for ever takes one eventually (SEQ, MAP
and HOST; ENV is not required to step)" (spec/70_reset_and_hazards.md R371, spec/42_pull_mapper.md R228).
`State.tick` counts the rounds begun. Log entries 2 and 22. -/
opaque Config.schedule : Nat → Round

end Sys2Proof
end

