-- ==== Sys2Proof/Machine/Pins.lean ====
section
/-! DEFINITION. The pin numberings and group maps (spec/00_scope.md R11, R17; spec/10_state.md R41;
spec/42_pull_mapper.md R211), the pull codes (R212) and the resolution of a pin's level
(spec/40_sequencer.md R151). -/

namespace Sys2Proof.Machine

/-! ### Numberings -/

/-- The physical pin of a PinSet ordinal (R41). -/
def physPin (k : Pin) : Nat := if k.val < 23 then k.val else k.val + 3

/-- The PinSet ordinal of a physical pin, none for a position outside the PinSet (R41). -/
def pinAt (p : Nat) : Option Pin :=
  if h : p < 23 then some ⟨p, by omega⟩
  else if h : 26 ≤ p ∧ p ≤ 28 then some ⟨p - 3, by omega⟩
  else none

/-- The bits of the physical pins under the block's control (R11). -/
def seqMask : Word := 0x1C7FFFFF#32

/-- The meaningful bits of the Group A pull word (R11). -/
def groupAMask : Word := 0xFFFFFFFF#32

/-- The meaningful bits of the Group B pull word (R11). -/
def groupBMask : Word := 0x03F03FFF#32

/-- The bits of the input word that name a line (R11). -/
def inputMeaningful : Word := 0x3FFFFFFF#32

/-! ### Pull words -/

/-- Whether a group-local index is mapped to a pin (R211). -/
def mapped (g : Group) (i : Fin 16) : Bool :=
  match g with
  | .a => true
  | .b => decide (i.val ≤ 6) || decide (10 ≤ i.val ∧ i.val ≤ 12)

/-- The physical pin number of a group-local index (R211), meaningful where the index is mapped. -/
def groupPhys (g : Group) (i : Fin 16) : Nat :=
  match g with
  | .a => i.val
  | .b => 16 + i.val

/-- The pin of a group-local index, none where the index is unmapped (R211). -/
def groupPin (g : Group) (i : Fin 16) : Option Pin :=
  if mapped g i then pinAt (groupPhys g i) else none

/-- `code(w, i) = w[2i+1:2i]` (R113, R212). -/
def pullCode (w : Word) (i : Fin 16) : BitVec 2 := w.extractLsb' (2 * i.val) 2

/-- `decode(c)`, the fixed four-way table (R112, R212). -/
def decodePull (c : BitVec 2) : PullMode :=
  if c = 0b00#2 then .none
  else if c = 0b01#2 then .up
  else if c = 0b10#2 then .down
  else .keep

/-- A code placed at field `i` of a zero word (R213). -/
def placeCode (c : BitVec 2) (i : Fin 16) : Word := (c.zeroExtend 32) <<< (2 * i.val)

/-! ### Levels -/

/-- `resolve(p, fresh)` of one pin, as a function of its direction, output latch, external drive, pad pull, held
level and a draw (R151). -/
def resolve (dir out : Bool) (e : Drive) (pull : PullMode) (held fresh : Bool) : Bool :=
  if dir then
    match e with
    | .z => out
    | .d0 => if out then fresh else false
    | .d1 => if out then true else fresh
  else
    match e with
    | .d0 => false
    | .d1 => true
    | .z =>
      match pull with
      | .up => true
      | .down => false
      | .keep => held
      | .none => fresh

/-- The sample IN PINS takes: the level of every PinSet pin, and a draw at each of the six other positions
(R147, R148). -/
def sampleWord (level : PinMap Bool) (fresh : Word) : Word :=
  BitVec.ofFnLE fun p : Fin 32 =>
    match pinAt p.val with
    | some k => level[k]
    | none => fresh.getLsbD p.val

end Sys2Proof.Machine
end

