-- ==== Sys2Proof/Decode.lean ====
section
/-! DEFINITION. The decoders of the two instruction spaces (spec/30_encoding.md R101 to R107), total and
refusing by name, and after them the encoder, written from the same tables. -/

namespace Sys2Proof

/-! ### Micro-operation words -/

/-- The decoder of micro-operation words: exactly five words are admitted, every other word `w` decodes to
"Unadmitted(w)", here `.error w` (R104). -/
def decodeMicro (w : BitVec 16) : Except (BitVec 16) Instr :=
  if w = 0x80A0#16 then .ok .pull
  else if w = 0x6080#16 then .ok .outPindirs
  else if w = 0x6000#16 then .ok .outPins
  else if w = 0x4000#16 then .ok .inPins
  else if w = 0x8020#16 then .ok .push
  else .error w

/-! ### HOST access codes -/

/-- The register at a byte offset of the window (R51); none at the reserved offset and beyond (R58). -/
def regAt (off : Nat) : Option Reg :=
  match off with
  | 0x00 => some .ctrl
  | 0x04 => some .status
  | 0x08 => some .txf
  | 0x0C => some .rxf
  | 0x10 => some .pullA
  | 0x14 => some .pullB
  | 0x18 => some .pullChg
  | _ => none

/-- The read of a register into HOST variable `x` (R107); TXF is write-only (R54). -/
def readOf (r : Reg) (x : HostVar) : Except RefuseReason Instr :=
  match r with
  | .ctrl => .ok (.ctrlRd x)
  | .status => .ok (.statusRd x)
  | .txf => .error .readWriteOnly
  | .rxf => .ok (.rxfRd x)
  | .pullA => .ok (.pullARd x)
  | .pullB => .ok (.pullBRd x)
  | .pullChg => .ok (.pullChgRd x)

/-- The write of `v` to a register (R107); STATUS, RXF and PULL_CHG are read-only (R53, R55, R57). -/
def writeOf (r : Reg) (v : Word) : Except RefuseReason Instr :=
  match r with
  | .ctrl => .ok (.ctrlWr v)
  | .status => .error .writeReadOnly
  | .txf => .ok (.txfWr v)
  | .rxf => .error .writeReadOnly
  | .pullA => .ok (.pullAWr v)
  | .pullB => .ok (.pullBWr v)
  | .pullChg => .error .writeReadOnly

/-- Checks (1) to (4) of R188 on an access, in that order, and the instruction it is when none of them
refuses it. -/
def decodeBus (write : Bool) (off width : Nat) (x : HostVar) (v : Word) : Except RefuseReason Instr :=
  if width ≠ 32 then .error .badWidth
  else if off % 4 ≠ 0 then .error .misalignedAccess
  else match regAt off with
    | none => .error .reservedOffset
    | some r => if write then writeOf r v else readOf r x

/-- The decoder of access codes, the code being W in bit 12 and OFF in bits 11:0 (R107); an access by code is 32
bits wide (R74). -/
def decodeAccess (code : BitVec 13) (x : HostVar) (v : Word) : Except RefuseReason Instr :=
  decodeBus (code.getLsbD 12) (code.extractLsb' 0 12).toNat 32 x v

/-! ### The table's numbering -/

/-- What an `Except` carries when it carries a result. -/
def okOption {ε α : Type} (r : Except ε α) : Option α :=
  match r with
  | .ok a => some a
  | .error _ => none

/-- Whether a table word lies in the access-code space: the 13-bit codes are below 0x2000, and every
micro-operation word the block admits is above it (R104, R107). Log entry 8. -/
def isAccessWord (w : Nat) : Bool := decide (w % 2 ^ 16 < 2 ^ 13)

/-- The instruction read from the low `nbits` bits of `w`, numbered as spec/opcode_table.json numbers them. An
access is its code in the low 16 bits with the data operand of a write in the 32 bits above; a read names the
variable `x`. Log entry 8. -/
def decodeTableWord (nbits w : Nat) : Option Instr :=
  let bits := w % 2 ^ nbits
  if isAccessWord bits then
    okOption (decodeAccess (BitVec.ofNat 13 bits) .varX (BitVec.ofNat 32 (bits / 2 ^ 16)))
  else if bits < 2 ^ 16 then okOption (decodeMicro (BitVec.ofNat 16 bits))
  else none

/-! ### The encoder -/

/-- An encoded instruction: a micro-operation word of `SEQ_PROG`, or an access code with its operand beside it
(R100, R107). -/
inductive Encoded where
  | micro (w : BitVec 16)
  | access (code : BitVec 13) (x : HostVar) (v : Word)
  deriving DecidableEq, Repr

/-- A micro-operation word from its fields: opcode [15:13], delay [12:8], operand bits [7:5] and count [4:0]
(R101, R102). The delay is 0 in every admitted word and a count of 32 is encoded as 0. -/
def microWord (opcode operand : BitVec 3) : BitVec 16 := opcode ++ 0#5 ++ operand ++ 0#5

/-- An access code from its fields (R107). -/
def accessCode (write : Bool) (off : BitVec 12) : BitVec 13 := BitVec.ofBool write ++ off

/-- The encoder (R102, R107). A write's destination and a read's data word are no part of the encoding; the
encoder gives them a fixed value. -/
def encode (i : Instr) : Encoded :=
  match i with
  | .pull => .micro (microWord 0b100#3 0b101#3)
  | .outPindirs => .micro (microWord 0b011#3 0b100#3)
  | .outPins => .micro (microWord 0b011#3 0b000#3)
  | .inPins => .micro (microWord 0b010#3 0b000#3)
  | .push => .micro (microWord 0b100#3 0b001#3)
  | .ctrlRd x => .access (accessCode false 0x000#12) x 0
  | .ctrlWr v => .access (accessCode true 0x000#12) .varX v
  | .statusRd x => .access (accessCode false 0x004#12) x 0
  | .txfWr v => .access (accessCode true 0x008#12) .varX v
  | .rxfRd x => .access (accessCode false 0x00C#12) x 0
  | .pullAWr w => .access (accessCode true 0x010#12) .varX w
  | .pullBWr w => .access (accessCode true 0x014#12) .varX w
  | .pullARd x => .access (accessCode false 0x010#12) x 0
  | .pullBRd x => .access (accessCode false 0x014#12) x 0
  | .pullChgRd x => .access (accessCode false 0x018#12) x 0

/-- The decoder over both spaces. -/
def decode (e : Encoded) : Option Instr :=
  match e with
  | .micro w => okOption (decodeMicro w)
  | .access code x v => okOption (decodeAccess code x v)

end Sys2Proof
end

