-- ==== Sys2Proof/Machine/Program.lean ====
section
/-! DEFINITION. The programs the spec fixes: the microprogram of SEQ (spec/30_encoding.md R103), the
pseudo-instructions of HOST (R116), its boot (spec/70_reset_and_hazards.md R345) and its reference loop
(spec/43_host_protocol.md R265). -/

namespace Sys2Proof.Machine

/-- `SEQ_PROG`, the fixed microprogram, one word per step (R103). -/
def microprogram : Vector (BitVec 16) 6 :=
  #v[0x80A0#16, 0x6080#16, 0x80A0#16, 0x6000#16, 0x4000#16, 0x8020#16]

/-- `wr CTRL, v` (R107). -/
def wrCtrl (v : HostVal) : HostOp := .access 0x1000#13 .varX v

/-- `wr TXF, v` (R107). -/
def wrTxf (v : HostVal) : HostOp := .access 0x1008#13 .varX v

/-- `rd x, RXF` (R107). -/
def rdRxf (x : HostVar) : HostOp := .access 0x000C#13 x (.lit 0)

/-- `wr PULL_A, w` (R107). -/
def wrPullA (v : HostVal) : HostOp := .access 0x1010#13 .varX v

/-- `wr PULL_B, w` (R107). -/
def wrPullB (v : HostVal) : HostOp := .access 0x1014#13 .varX v

/-- `start` = `wr CTRL, 1` (R116, R181). -/
def start : List HostOp := [wrCtrl (.lit 1)]

/-- `send_pair d, o` = `send d; send o` (R116, R192). -/
def sendPair (d o : HostVal) : List HostOp := [.send d, .send o]

/-- `set_pulls a, b` = `wr PULL_A, a; wr PULL_B, b` (R116, R256). -/
def setPulls (a b : HostVal) : List HostOp := [wrPullA a, wrPullB b]

/-- The expansion of `send v`: wait while STATUS.TX_FULL, then write TXF (R116). -/
def expandSend (v : HostVal) : List HostOp := [.waitStatus 0, wrTxf v]

/-- The expansion of `recv x`: wait while STATUS.RX_EMPTY, then read RXF (R116). -/
def expandRecv (x : HostVar) : List HostOp := [.waitStatus 3, rdRxf x]

/-- What boot does to the block: it starts the sequencer (R345 step 4). The other steps of R345 lie outside the
block or are what State.reset holds already (step 3 loads `SEQ_PROG`, R63). Log entry 15. -/
def bootProg : List HostOp := start

/-- The sequencer part of one iteration of the reference loop (R265). -/
def exchange : List HostOp :=
  sendPair (.var .lsDirection) (.var .lsOutput) ++ [.recv .lsInput, .pushInput]

/-- One iteration of the reference loop (R265). -/
def loopBody : List HostOp := .poll :: .tryPullOutput :: exchange

end Sys2Proof.Machine
end

