-- ==== Sys2Proof/Machine/State.lean ====
section
/-! DEFINITION. The state of the block (spec/10_state.md R31 to R62), the reasons a step of the model can stop, and
the state after reset (R63). -/

namespace Sys2Proof.Machine

/-- The reasons a step stops with a fault. The faults of R301 are no stop: they are records in `FAULTS`. -/
inductive Fault where
  /-- Raised by a SEQ step whose `SEQ_PC` is 6 or 7: the program store has six entries (R59), and "values 6 and 7
  are unreachable" (R35). Safe: no run from reset reaches it. Log entry 17. -/
  | fetchOutsideProgram (pc : BitVec 3)
  deriving DecidableEq, Repr

/-- The reasons a step is refused. The refusals of R302 are no stop: they set `REFUSED`. -/
inductive Refusal where
  /-- Raised by an arm of `exec` whose instruction has no meaning yet. Safe. No arm is so. -/
  | notModelled (mnemonic : String)
  /-- Raised by a HOST bus access below `P_BLOCK_BASE`: "Everything else in the host's address space is the
  platform's and outside this spec" (R76). Safe. Log entry 14. -/
  | outsideBlock (addr : Nat)
  deriving DecidableEq, Repr

/-- The state of the block and of its HOST and ENV. Fields under "the model's own" are not the spec's. -/
structure State where
  /-- the parameters of R10; no step writes them -/
  params : Params
  /-- `SEQ_EN` (R36) -/
  seqEn : Bool
  /-- `SEQ_PC` (R35) -/
  seqPc : BitVec 3
  /-- `OSR` (R33) -/
  osr : Word
  /-- `ISR` (R34) -/
  isr : Word
  /-- `TXQ`, head first (R37) -/
  txq : List Word
  /-- `RXQ`, head first (R38) -/
  rxq : List Word
  /-- `SEQ_PROG` (R59) -/
  seqProg : Vector (BitVec 16) 6
  /-- `PINDIR` (R39) -/
  pindir : Word
  /-- `PINOUT` (R40) -/
  pinout : Word
  /-- `PAD_PULL[p]` (R44) -/
  padPull : PinMap PullMode
  /-- `LEVEL[p]` (R43) -/
  level : PinMap Bool
  /-- `EXT[p]` (R42) -/
  ext : PinMap Drive
  /-- `PULL_A`, also `LS.pull_a` (R45, R61) -/
  pullA : Word
  /-- `PULL_B`, also `LS.pull_b` (R46, R61) -/
  pullB : Word
  /-- `PULL_CHG` (R47) -/
  pullChg : BitVec 2
  /-- `MAP_BUSY` (R48) -/
  mapBusy : Option MapJob
  /-- `FAULTS`, a set: a list with no repeats (R49) -/
  faults : List FaultRecord
  /-- `REFUSED` (R49) -/
  refused : Bool
  /-- the reasons the refusals named, a list with no repeats (R302) -/
  reasons : List RefuseReason
  /-- `LS.direction` (R61) -/
  lsDirection : Word
  /-- `LS.output` (R61) -/
  lsOutput : Word
  /-- `LS.input` (R61) -/
  lsInput : Word
  /-- HOST's variable `t` (R116) -/
  varT : Word
  /-- HOST's variable `x` (R116) -/
  varX : Word
  /-- HOST's variable `c` (spec/95_test_vectors.md P2) -/
  varC : Word
  /-- `IN_BUF` (R62) -/
  inBuf : Option InputReport
  /-- the packet the USB host sent since the last `try_pull_output` (R252) -/
  usbOut : Option (List Byte)
  /-- whether a `poll` has run, before which no Input Report can be fetched (R263) -/
  polled : Bool
  /-- the model's own: what HOST has still to do in this iteration; `[]` is the top of the loop (R265) -/
  hostProg : List HostOp
  /-- the model's own: the turns already decided, the next one first; after them the next round of
  `Config.schedule` -/
  sched : List Turn
  /-- the model's own: how many rounds of `Config.schedule` have begun -/
  tick : Nat
  /-- the model's own: how many words of `Config.draw` have been used -/
  draws : Nat
  deriving DecidableEq, Repr

/-- The state when the block leaves reset (R63, R340 to R343), HOST at its boot (R345). Log entries 9, 10,
11, 15 and 18 say which fields the spec gives no value. -/
def State.reset : State where
  params := Config.params
  seqEn := false
  seqPc := 0
  osr := 0
  isr := 0
  txq := []
  rxq := []
  seqProg := microprogram
  pindir := 0
  pinout := 0
  padPull := Vector.ofFn Config.padPullReset
  level := Vector.ofFn Config.levelReset
  ext := Vector.ofFn Config.extReset
  pullA := 0
  pullB := 0
  pullChg := 0
  mapBusy := none
  faults := []
  refused := false
  reasons := []
  lsDirection := 0
  lsOutput := 0
  lsInput := 0
  varT := 0
  varX := 0
  varC := 0
  inBuf := none
  usbOut := none
  polled := false
  hostProg := bootProg
  sched := []
  tick := 0
  draws := 0

end Sys2Proof.Machine
end

