-- ==== Sys2Proof/Machine/Ops.lean ====
section
/-! DEFINITION. The operations the meanings share: recording a fault and a refusal (spec/60_exceptions.md R301,
R302), resolving levels (spec/40_sequencer.md R152), the queue limits (R37, R38), the hold of the window
(spec/41_channel_interface.md R188 (5)), and the turn of the next agent (R305). -/

namespace Sys2Proof.Machine

/-- What a step of the model answers. -/
abbrev Result := Host.Outcome State Fault Refusal

/-! ### Faults and refusals

The block has no trap entry and no trap return (R307, R308). What it has in their place is these two
operations: the step "makes no other change". Log entry 12. -/

/-- `raise f`: the record is added to `FAULTS` (R49, R301). -/
def raiseFault (f : FaultRecord) (s : State) : State := { s with faults := s.faults.insert f }

/-- `refuse r`: `REFUSED` becomes 1 and the reason is named (R49, R302). -/
def refuse (r : RefuseReason) (s : State) : State :=
  { s with refused := true, reasons := s.reasons.insert r }

/-! ### Parameters and queues -/

/-- `P_TXQ_DEPTH` (R10). -/
def txqDepth (s : State) : Nat := s.params.txqDepthPred.val + 1

/-- `P_RXQ_DEPTH` (R10). -/
def rxqDepth (s : State) : Nat := s.params.rxqDepthPred.val + 1

/-- `P_BLOCK_BASE` (R10, R76). -/
def blockBase (s : State) : Nat := 4 * s.params.blockBaseWord

/-- `len(TXQ) = P_TXQ_DEPTH` (R53, R184). -/
def txFull (s : State) : Bool := decide (s.txq.length = txqDepth s)

/-- `len(RXQ) = P_RXQ_DEPTH` (R53, R149). -/
def rxFull (s : State) : Bool := decide (s.rxq.length = rxqDepth s)

/-- `MAP_BUSY ≠ none` (R48, R220). -/
def mapActive (s : State) : Bool := s.mapBusy.isSome

/-- Check (5) of R188, which every window access passes before its register's own rule: while `MAP_BUSY ≠ none`
the access holds, and a hold leaves the state unchanged (R15, R220). Log entry 19. -/
def whenMapIdle (s : State) (act : State → Result) : Result :=
  if mapActive s then .next s else act s

/-! ### Levels -/

/-- `resolve(p, draw)` of a pin in a state, the draw taken from a word of draws (R151). -/
def resolvePin (s : State) (fresh : Word) (k : Pin) : Bool :=
  resolve (s.pindir.getLsbD (physPin k)) (s.pinout.getLsbD (physPin k)) s.ext[k] s.padPull[k] s.level[k]
    (fresh.getLsbD (physPin k))

/-- The next word of draws (R15). -/
def drawNow (s : State) : Word := Config.draw s.draws

/-- `for each p in PinSet: LEVEL[p] <- resolve(p, draw)` (R143, R145, R147, R152). -/
def refreshAll (s : State) : State :=
  { s with level := Vector.ofFn (resolvePin s (drawNow s)), draws := s.draws + 1 }

/-- `LEVEL[p] <- resolve(p, draw)` for one pin (R152, R222). -/
def refreshPin (k : Pin) (s : State) : State :=
  { s with level := s.level.set k (resolvePin s (drawNow s) k), draws := s.draws + 1 }

/-! ### Turns -/

/-- The turn of the next step: the first decided one, else the first of the next round (R305, R371). A round is
never empty. -/
def turnNow (s : State) : Turn :=
  match s.sched with
  | [] => (Config.schedule s.tick).turns.headD .seq
  | turn :: _ => turn

/-- The state with the next turn used up; where it was the first of a round, the others of that round are decided. -/
def tookTurn (s : State) : State :=
  match s.sched with
  | [] => { s with sched := (Config.schedule s.tick).turns.tail, tick := s.tick + 1 }
  | _ :: later => { s with sched := later }

end Sys2Proof.Machine
end

