-- ==== Sys2Proof/Machine/Flags.lean ====
section
/-! DEFINITION. The only flags of the block (spec/10_state.md R50): the queue-state bits of STATUS (R53, R182) and the
change flags (R47, R214, R215). -/

namespace Sys2Proof.Machine

/-- The STATUS word from its fields, the most significant first (R53). -/
def statusFields (rxLevel txLevel : BitVec 8) (busy rxEmpty rxFull txEmpty txFull : Bool) : Word :=
  0#8 ++ rxLevel ++ txLevel ++ 0#3 ++ BitVec.ofBool busy ++ BitVec.ofBool rxEmpty ++ BitVec.ofBool rxFull ++
    BitVec.ofBool txEmpty ++ BitVec.ofBool txFull

/-- STATUS, "computed from the queues at the time of the read" (R53, R182). -/
def statusWord (s : State) : Word :=
  statusFields (BitVec.ofNat 8 s.rxq.length) (BitVec.ofNat 8 s.txq.length) (mapActive s) s.rxq.isEmpty (rxFull s)
    s.txq.isEmpty (txFull s)

/-- The position of a group's flag in `PULL_CHG` (R47). -/
def flagBit (g : Group) : Nat :=
  match g with
  | .a => 0
  | .b => 1

/-- `PULL_CHG[g] <- b`, the other flag kept (R214, R215). -/
def setFlag (g : Group) (b : Bool) (flags : BitVec 2) : BitVec 2 :=
  match g with
  | .a => BitVec.ofBool (flags.getLsbD 1) ++ BitVec.ofBool b
  | .b => BitVec.ofBool b ++ BitVec.ofBool (flags.getLsbD 0)

/-- The change flag of a write: 32-bit inequality with the word held before (R219). -/
def changed (old new : Word) : Bool := decide (new ≠ old)

end Sys2Proof.Machine
end

