-- ==== Sys2Proof/Machine/Operands.lean ====
section
/-! DEFINITION. The operands of HOST operations: its variables and the values it writes (spec/30_encoding.md R116;
spec/10_state.md R61). -/

namespace Sys2Proof.Machine

/-- The value of a HOST variable. -/
def getVar (x : HostVar) (s : State) : Word :=
  match x with
  | .varT => s.varT
  | .varX => s.varX
  | .varC => s.varC
  | .lsDirection => s.lsDirection
  | .lsOutput => s.lsOutput
  | .lsInput => s.lsInput

/-- `x <- v` for a HOST variable. -/
def setVar (x : HostVar) (v : Word) (s : State) : State :=
  match x with
  | .varT => { s with varT := v }
  | .varX => { s with varX := v }
  | .varC => { s with varC := v }
  | .lsDirection => { s with lsDirection := v }
  | .lsOutput => { s with lsOutput := v }
  | .lsInput => { s with lsInput := v }

/-- The value operand of a write: "a literal or a HOST variable" (R116). -/
def getVal (v : HostVal) (s : State) : Word :=
  match v with
  | .lit w => w
  | .var x => getVar x s

end Sys2Proof.Machine
end

