-- ==== Sys2Proof/Machine/Channel.lean ====
section
/-! DEFINITION. HOST's accesses to CTRL, STATUS, TXF and RXF (spec/41_channel_interface.md R180 to R186), each after
the hold of R188 (5). Checks (1) to (4) of R188 are the decoder's. -/

namespace Sys2Proof.Machine

/-- `rd x, CTRL` (R180). -/
def execCtrlRd (x : HostVar) (s : State) : Result :=
  whenMapIdle s fun s => .next (setVar x ((BitVec.ofBool s.seqEn).zeroExtend 32) s)

/-- `wr CTRL, v` (R181). -/
def execCtrlWr (v : Word) (s : State) : Result :=
  whenMapIdle s fun s =>
    if v.extractLsb' 1 31 ≠ 0 then .next (refuse .ctrlReservedBits s)
    else if v.getLsbD 0 = false ∧ s.seqEn = true then .next (refuse .seqStop s)
    else .next { s with seqEn := v.getLsbD 0 }

/-- `rd x, STATUS` (R182). -/
def execStatusRd (x : HostVar) (s : State) : Result :=
  whenMapIdle s fun s => .next (setVar x (statusWord s) s)

/-- `wr TXF, v` (R184). -/
def execTxfWr (v : Word) (s : State) : Result :=
  whenMapIdle s fun s =>
    if txFull s then .next (raiseFault (.txOverflow v) s)
    else .next { s with txq := s.txq ++ [v] }

/-- `rd x, RXF` (R186). -/
def execRxfRd (x : HostVar) (s : State) : Result :=
  whenMapIdle s fun s =>
    match s.rxq with
    | [] => .next (raiseFault .rxUnderflow s)
    | word :: rest => .next (setVar x word { s with rxq := rest })

end Sys2Proof.Machine
end

