-- ==== Sys2Proof/Machine/PullMapper.lean ====
section
/-! DEFINITION. The pull mapper (spec/42_pull_mapper.md): HOST's accesses to PULL_A, PULL_B and PULL_CHG (R214 to
R218), each after the hold of R188 (5), and the MAP step (R222). -/

namespace Sys2Proof.Machine

/-- `if chg: MAP_BUSY <- (g, w, 0)` (R214, R215). -/
def startMap (g : Group) (w : Word) (chg : Bool) (s : State) : State :=
  if chg then { s with mapBusy := some { group := g, word := w, index := 0 } } else s

/-- `wr PULL_A, w` (R214). -/
def execPullAWr (w : Word) (s : State) : Result :=
  whenMapIdle s fun s =>
    let chg := changed s.pullA w
    .next (startMap .a w chg { s with pullChg := setFlag .a chg s.pullChg, pullA := w })

/-- `wr PULL_B, w` (R215). -/
def execPullBWr (w : Word) (s : State) : Result :=
  whenMapIdle s fun s =>
    let chg := changed s.pullB w
    .next (startMap .b w chg { s with pullChg := setFlag .b chg s.pullChg, pullB := w })

/-- `rd x, PULL_A` (R216). -/
def execPullARd (x : HostVar) (s : State) : Result :=
  whenMapIdle s fun s => .next (setVar x s.pullA s)

/-- `rd x, PULL_B` (R217). -/
def execPullBRd (x : HostVar) (s : State) : Result :=
  whenMapIdle s fun s => .next (setVar x s.pullB s)

/-- `rd x, PULL_CHG` (R218). -/
def execPullChgRd (x : HostVar) (s : State) : Result :=
  whenMapIdle s fun s => .next (setVar x (s.pullChg.zeroExtend 32) s)

/-- The pad of one index of a job, where the index is mapped (R222). Log entry 21. -/
def applyIndex (job : MapJob) (s : State) : State :=
  match groupPin job.group job.index with
  | none => s
  | some k => refreshPin k { s with padPull := s.padPull.set k (decodePull (pullCode job.word job.index)) }

/-- `MAP_BUSY` after the step of one index (R222). -/
def nextJob (job : MapJob) : Option MapJob :=
  if job.index = 15 then none else some { job with index := job.index + 1 }

/-- One MAP step (R222); MAP has none while `MAP_BUSY = none`. -/
def mapStep (s : State) : State :=
  match s.mapBusy with
  | none => s
  | some job => { applyIndex job s with mapBusy := nextJob job }

end Sys2Proof.Machine
end

