-- ==== Sys2Proof/Machine/Sequencer.lean ====
section
/-! DEFINITION. The five micro-operations (spec/40_sequencer.md R141 to R149). None writes a flag, faults or is
refused; PULL and PUSH may hold, and a hold leaves the state unchanged (R140). Log entries 7, 19 and 25. -/

namespace Sys2Proof.Machine

/-- `pull block` (R141). Holds while TXQ is empty. -/
def execPull (s : State) : Result :=
  match s.txq with
  | [] => .next s
  | word :: rest => .next { s with osr := word, txq := rest, seqPc := s.seqPc + 1 }

/-- `out pindirs, 32` (R143). DEDUCED: every PinSet pin is resolved with a fresh draw, as the pseudocode has it, also
a pin none of whose inputs of `resolve` the word changes (R152). Log entry 25. -/
def execOutPindirs (s : State) : Result :=
  .next { refreshAll { s with pindir := s.osr, osr := 0 } with seqPc := 2 }

/-- `out pins, 32` (R145). DEDUCED: every PinSet pin is resolved with a fresh draw, as the pseudocode has it, so a
floating or contended pin may change its level even under "the same word as before" (R145's corner case, R152). Log
entry 25. -/
def execOutPins (s : State) : Result :=
  .next { refreshAll { s with pinout := s.osr, osr := 0 } with seqPc := 4 }

/-- `in pins, 32` (R147): every PinSet pin is resolved with a fresh draw and then sampled; the six other
positions are draws (R148), taken from the bits of the same word of draws that no pin uses. Log entry 20. -/
def execInPins (s : State) : Result :=
  let t := refreshAll s
  .next { t with isr := sampleWord t.level (drawNow s), seqPc := 5 }

/-- `push block` (R149, R150). Holds while RXQ is full. -/
def execPush (s : State) : Result :=
  if rxFull s then .next s
  else .next { s with rxq := s.rxq ++ [s.isr], isr := 0, seqPc := 0 }

end Sys2Proof.Machine
end

