-- ==== Sys2Proof/Machine/Dispatch.lean ====
section
/-! DEFINITION. The meaning of every instruction: one arm per constructor of Instr. -/

namespace Sys2Proof.Machine

def exec (i : Instr) (s : State) : Host.Outcome State Fault Refusal :=
  match i with
  | .pull => Sys2Proof.Machine.execPull s
  | .outPindirs => Sys2Proof.Machine.execOutPindirs s
  | .outPins => Sys2Proof.Machine.execOutPins s
  | .inPins => Sys2Proof.Machine.execInPins s
  | .push => Sys2Proof.Machine.execPush s
  | .ctrlRd x => Sys2Proof.Machine.execCtrlRd x s
  | .ctrlWr v => Sys2Proof.Machine.execCtrlWr v s
  | .statusRd x => Sys2Proof.Machine.execStatusRd x s
  | .txfWr v => Sys2Proof.Machine.execTxfWr v s
  | .rxfRd x => Sys2Proof.Machine.execRxfRd x s
  | .pullAWr w => Sys2Proof.Machine.execPullAWr w s
  | .pullBWr w => Sys2Proof.Machine.execPullBWr w s
  | .pullARd x => Sys2Proof.Machine.execPullARd x s
  | .pullBRd x => Sys2Proof.Machine.execPullBRd x s
  | .pullChgRd x => Sys2Proof.Machine.execPullChgRd x s

end Sys2Proof.Machine
end

