-- ==== Sys2Proof/Machine/Environment.lean ====
section
/-! DEFINITION. The steps of ENV (spec/10_state.md R42; spec/43_host_protocol.md R252, R263). -/

namespace Sys2Proof.Machine

/-- The external drive after a change of a subset of the pins (R42). -/
def drivenExt (change : PinMap (Option Drive)) (s : State) : PinMap Drive :=
  Vector.ofFn fun k => (change[k]).getD s.ext[k]

/-- ENV changes the external drive, and the resolution is applied to every pin whose drive changed (R42,
R152). Log entry 13. -/
def envDrive (change : PinMap (Option Drive)) (s : State) : State :=
  let driven := { s with ext := drivenExt change s }
  { driven with
    level := Vector.ofFn fun k =>
      if driven.ext[k] = s.ext[k] then s.level[k] else resolvePin driven (drawNow s) k
    draws := s.draws + 1 }

/-- The USB host sends a packet; it waits for the next `try_pull_output` (R252). Log entry 10. -/
def envDeliver (packet : List Byte) (s : State) : State := { s with usbOut := some packet }

/-- The USB host fetches `IN_BUF`, which empties it: "possible only during or after a poll" (R263). Log entry 11. -/
def envFetch (s : State) : State := { s with inBuf := if s.polled then none else s.inBuf }

/-- One step of ENV. -/
def envStep (e : EnvEvent) (s : State) : State :=
  match e with
  | .drive change => envDrive change s
  | .deliver packet => envDeliver packet s
  | .fetch => envFetch s

end Sys2Proof.Machine
end

