-- ==== Sys2Proof/Machine/Reports.lean ====
section
/-! DEFINITION. The wire formats of the reports and the Transport's rules on them (spec/30_encoding.md R110, R111;
spec/43_host_protocol.md R252 to R258). -/

namespace Sys2Proof.Machine

/-- A little-endian word from its four bytes, byte 0 first (R71, R110). -/
def wordOfBytes (b0 b1 b2 b3 : Byte) : Word := b3 ++ b2 ++ b1 ++ b0

/-- Byte `i` of a word (R71, R111). -/
def byteOfWord (w : Word) (i : Nat) : Byte := w.extractLsb' (8 * i) 8

/-- `decode_output(b)` (R110, R254). -/
def decodeOutput (b : Vector Byte 16) : OutputReport where
  direction := wordOfBytes b[0] b[1] b[2] b[3]
  pullA := wordOfBytes b[4] b[5] b[6] b[7]
  pullB := wordOfBytes b[8] b[9] b[10] b[11]
  output := wordOfBytes b[12] b[13] b[14] b[15]

/-- `encode_input(x)` (R111, R254). -/
def encodeInput (x : Word) : InputReport :=
  #v[byteOfWord x 0, byteOfWord x 1, byteOfWord x 2, byteOfWord x 3]

/-- `snapshot_input()`: `encode_input(LS.input)`, "a pure read" (R258). -/
def snapshotInput (s : State) : InputReport := encodeInput s.lsInput

/-- The first 16 bytes of a packet, none of a shorter one, which is "silently dropped" (R252). -/
def reportOf (packet : List Byte) : Option (Vector Byte 16) :=
  if 16 ≤ packet.length then some (Vector.ofFn fun i => packet.getD i.val 0) else none

/-- What `try_pull_output` returns (R252). -/
def pulledReport (s : State) : Option (Vector Byte 16) := s.usbOut.bind reportOf

end Sys2Proof.Machine
end

