-- ==== Sys2Proof/Machine/Agents.lean ====
section
/-! DEFINITION. The steps of SEQ (spec/40_sequencer.md R140) and of HOST (spec/41_channel_interface.md R188 to R193;
spec/43_host_protocol.md R250 to R265), which fetch, decode and run instructions; the step of whichever
agent has the turn; and the placing of an instruction where its agent fetches next. -/

namespace Sys2Proof.Machine

/-! ### SEQ -/

/-- `word <- SEQ_PROG[SEQ_PC]` (R72, R140); none where the store has no entry (R59). -/
def fetchWord (s : State) : Option (BitVec 16) := s.seqProg[s.seqPc.toNat]?

/-- Whether SEQ has an enabled step: "iff `SEQ_EN = 1` and `REFUSED = 0`" (R140). -/
def seqEnabled (s : State) : Bool := s.seqEn && !s.refused

/-- One SEQ step (R140). -/
def seqStep (s : State) : Result :=
  if seqEnabled s then
    match fetchWord s with
    | none => .fault (.fetchOutsideProgram s.seqPc)
    | some word =>
      match decodeMicro word with
      | .ok i => exec i s
      | .error w => .next (refuse (.unknownMicroword s.seqPc w) s)
  else .next s

/-! ### HOST -/

/-- A window access of the HOST program: its instruction runs, and HOST goes on to `rest` unless the access
holds, in which case it is tried again (R188 (5), R220). -/
def hostRun (i : Instr) (rest : List HostOp) (s : State) : Result :=
  match exec i s with
  | .next t => .next (if mapActive s then t else { t with hostProg := rest })
  | .fault f => .fault f
  | .refused r => .refused r

/-- A decoded access: a refused one sets `REFUSED` and changes no other element of the block (R189). -/
def hostAccess (d : Except RefuseReason Instr) (rest : List HostOp) (s : State) : Result :=
  match d with
  | .error r => .next { refuse r s with hostProg := rest }
  | .ok i => hostRun i rest s

/-- One HOST operation, `rest` being what follows it in the program. Log entries 14 and 16. -/
def hostOp (op : HostOp) (rest : List HostOp) (s : State) : Result :=
  match op with
  | .access code x v => hostAccess (decodeAccess code x (getVal v s)) rest s
  | .bus write addr width x v =>
    if addr < blockBase s then .refused (.outsideBlock addr)
    else hostAccess (decodeBus write (addr - blockBase s) width x (getVal v s)) rest s
  | .waitStatus bit =>
    match exec (.statusRd .varT) s with
    | .next t => .next (if mapActive s || t.varT.getLsbD bit then t else { t with hostProg := rest })
    | .fault f => .fault f
    | .refused r => .refused r
  | .send v => if mapActive s || txFull s then .next s else hostRun (.txfWr (getVal v s)) rest s
  | .recv x => if mapActive s || s.rxq.isEmpty then .next s else hostRun (.rxfRd x) rest s
  | .poll => .next { s with polled := true, hostProg := rest }
  | .tryPullOutput =>
    .next { s with
      usbOut := none
      hostProg := match pulledReport s with
        | none => rest
        | some b => .applyReport b :: rest }
  | .applyReport b =>
    let r := decodeOutput b
    .next { s with
      lsDirection := r.direction
      lsOutput := r.output
      hostProg := setPulls (.lit r.pullA) (.lit r.pullB) ++ rest }
  | .pushInput => .next { s with inBuf := some (snapshotInput s), hostProg := rest }

/-- What HOST has to do: its program, and the loop body again when the program is at its end (R265, R266). -/
def hostPending (s : State) : List HostOp :=
  match s.hostProg with
  | [] => loopBody
  | prog => prog

/-- One HOST step. -/
def hostStep (s : State) : Result :=
  match hostPending s with
  | [] => .next s
  | op :: rest => hostOp op rest s

/-! ### The step of the agent that has the turn -/

/-- One step of an agent (R30, R305). -/
def agentStep (turn : Turn) (s : State) : Result :=
  match turn with
  | .seq => seqStep s
  | .map => .next (mapStep s)
  | .host => hostStep s
  | .env e => .next (envStep e s)

/-! ### Placing an instruction -/

/-- A micro-operation word put where SEQ, enabled, fetches next. -/
def placeMicro (word : BitVec 16) (s : State) : State :=
  let pc := if s.seqPc.toNat < 6 then s.seqPc else 0
  { s with
    seqEn := true
    refused := false
    reasons := []
    seqPc := pc
    seqProg := s.seqProg.setIfInBounds pc.toNat word
    sched := .seq :: s.sched }

/-- An access put where HOST takes its next operation. -/
def placeAccess (code : BitVec 13) (v : Word) (s : State) : State :=
  { s with
    hostProg := .access code .varX (.lit v) :: s.hostProg
    sched := .host :: s.sched }

end Sys2Proof.Machine
end

