-- ==== Sys2Proof/Machine/Step.lean ====
section
/-! DEFINITION. The one step of the model, and the placing of the instruction it runs next. -/

namespace Sys2Proof.Machine

/-- One step: the agent that has the turn takes one step (spec/60_exceptions.md R305). -/
def step (s : State) : Host.Outcome State Fault Refusal := agentStep (turnNow s) (tookTurn s)

/-- `s` with the instruction of the low `nbits` bits of `w` stored where the next step fetches it, and the turn
given to the agent that runs it. Log entries 1 and 8. -/
def State.withFetchWord (s : State) (nbits w : Nat) : State :=
  let bits := w % 2 ^ nbits
  if isAccessWord bits then placeAccess (BitVec.ofNat 13 bits) (BitVec.ofNat 32 (bits / 2 ^ 16)) s
  else placeMicro (BitVec.ofNat 16 bits) s

end Sys2Proof.Machine
end

