-- ==== Sys2Proof/Safety.lean ====
section
/-! DEFINITION. What a good state is, in the terms the statements use: a run inside the behaviour the spec gives a
meaning to, the invariant of the block, the agreement of pads with pull words, and the invariant of the
reference loop. -/

namespace Sys2Proof.Safety

open Sys2Proof.Machine

/-- The state has left no behaviour the spec gives a meaning to: no fault recorded, nothing refused
(R49, R301, R302). -/
def Clean (s : State) : Prop := s.faults = [] ∧ s.refused = false

/-! ### The block -/

/-- The pull word last written for a group (R45, R46). -/
def shadow (g : Group) (s : State) : Word :=
  match g with
  | .a => s.pullA
  | .b => s.pullB

/-- The change flag of a group (R47). -/
def flagOf (g : Group) (s : State) : Bool := s.pullChg.getLsbD (flagBit g)

/-- A running reconfiguration applies the group's last word, and its write set the flag (R48, R221). -/
def JobMatchesShadow (s : State) : Prop :=
  ∀ job, s.mapBusy = some job → shadow job.group s = job.word ∧ flagOf job.group s = true

/-- The invariant of the block. -/
structure BlockInv (s : State) : Prop where
  /-- "`len ≤ P_TXQ_DEPTH`" (R31, R37) -/
  txq_le : s.txq.length ≤ txqDepth s
  /-- "`len ≤ P_RXQ_DEPTH`" (R31, R38) -/
  rxq_le : s.rxq.length ≤ rxqDepth s
  /-- "taking only the values 0–5" (R35) -/
  pc_le : s.seqPc.toNat ≤ 5
  /-- "nothing writes it after boot" (R59, R84) -/
  prog_eq : s.seqProg = microprogram
  /-- `FAULTS` is a set (R49) -/
  faults_nodup : s.faults.Nodup
  /-- every refusal names its reason once (R302) -/
  reasons_nodup : s.reasons.Nodup
  /-- `REFUSED` is set exactly when a reason was named (R302) -/
  refused_iff : s.refused = true ↔ s.reasons ≠ []
  /-- "no run of the block fetches such a word" (R104) -/
  no_unknown : ∀ pc w, RefuseReason.unknownMicroword pc w ∉ s.reasons
  /-- a running reconfiguration applies the group's last word (R48, R221) -/
  job_matches : JobMatchesShadow s

/-- Index `i` of group `g` is not waiting in a running reconfiguration. -/
def Applied (g : Group) (i : Fin 16) (s : State) : Prop :=
  ∀ job, s.mapBusy = some job → job.group = g → i < job.index

/-- Every pad of a group whose last write changed its word holds the mode of its code in that word, once the
reconfiguration has passed it (R214, R222). -/
def PadsFollowShadow (s : State) : Prop :=
  ∀ g i k, flagOf g s = true → groupPin g i = some k → Applied g i s →
    s.padPull[k] = decodePull (pullCode (shadow g s) i)

/-- HOST's program makes no bus access below the block's base, which would be one to the rest of the platform (R76). -/
def HostStaysInside (s : State) : Prop :=
  ∀ (write : Bool) (addr width : Nat) (x : HostVar) (v : HostVal),
    .bus write addr width x v ∈ s.hostProg → blockBase s ≤ addr

/-! ### The reference loop (R265 to R270) -/

/-- SEQ waits for a direction word with both queues empty (R267). -/
def SeqWaiting (s : State) : Prop := s.seqPc = 0 ∧ s.txq = [] ∧ s.rxq = []

/-- HOST has sent nothing in this iteration yet: it is at the top, polling, or handling a report; and MAP runs only
once a pull word was written (R265, R267). -/
def HostBeforeSend (s : State) : Prop :=
  (s.mapBusy = none ∧
    (s.hostProg = [] ∨ s.hostProg = .tryPullOutput :: exchange ∨ (∃ b, s.hostProg = .applyReport b :: exchange) ∨
      (∃ a b, s.hostProg = setPulls (.lit a) (.lit b) ++ exchange))) ∨
  (∃ b, s.hostProg = wrPullB (.lit b) :: exchange) ∨ s.hostProg = exchange

/-- The direction word of the iteration is on its way or applied, and SEQ waits for the output word. -/
def DirectionInFlight (s : State) : Prop :=
  s.rxq = [] ∧
    ((s.seqPc = 0 ∧ s.txq = [s.lsDirection]) ∨
      (s.seqPc = 1 ∧ s.txq = [] ∧ s.osr = s.lsDirection) ∨
      (s.seqPc = 2 ∧ s.txq = [] ∧ s.pindir = s.lsDirection))

/-- Both words of the iteration are on their way or applied, and its sample not yet received. -/
def PairInFlight (s : State) : Prop :=
  (s.rxq = [] ∧
    ((s.seqPc = 0 ∧ s.txq = [s.lsDirection, s.lsOutput]) ∨
      (s.seqPc = 1 ∧ s.txq = [s.lsOutput] ∧ s.osr = s.lsDirection) ∨
      (s.seqPc = 2 ∧ s.txq = [s.lsOutput] ∧ s.pindir = s.lsDirection) ∨
      (s.seqPc = 3 ∧ s.txq = [] ∧ s.pindir = s.lsDirection ∧ s.osr = s.lsOutput) ∨
      ((s.seqPc = 4 ∨ s.seqPc = 5) ∧ s.txq = [] ∧ s.pindir = s.lsDirection ∧ s.pinout = s.lsOutput))) ∨
  (s.seqPc = 0 ∧ s.txq = [] ∧ s.rxq.length = 1 ∧ s.pindir = s.lsDirection ∧ s.pinout = s.lsOutput)

/-- Where HOST stands in the loop fixes where SEQ and the queues stand (R267, R268). -/
def LoopPhase (s : State) : Prop :=
  (s.hostProg = bootProg ∧ s.seqEn = false ∧ s.mapBusy = none ∧ SeqWaiting s) ∨
  (s.seqEn = true ∧
    ((HostBeforeSend s ∧ SeqWaiting s) ∨
      (s.hostProg = exchange.drop 1 ∧ s.mapBusy = none ∧ DirectionInFlight s) ∨
      (s.hostProg = exchange.drop 2 ∧ s.mapBusy = none ∧ PairInFlight s) ∨
      (s.hostProg = exchange.drop 3 ∧ s.mapBusy = none ∧ SeqWaiting s ∧
        s.pindir = s.lsDirection ∧ s.pinout = s.lsOutput)))

/-- The invariant of the reference loop, under every interleaving (R267). -/
structure LoopInv (s : State) : Prop where
  clean : Clean s
  prog_eq : s.seqProg = microprogram
  phase : LoopPhase s

/-- Nothing outside drives a pin (the premise R42 names). -/
def Undriven (s : State) : Prop := ∀ k : Pin, s.ext[k] = .z

/-- Every output pin of a direction word reads its output bit in a sample. -/
def ReadsBack (dir out sample : Word) : Prop :=
  ∀ k : Pin, dir.getLsbD (physPin k) = true → sample.getLsbD (physPin k) = out.getLsbD (physPin k)

/-- In a loop no pin of which is driven from outside, a sample reads back the pair it was taken under, from the
moment SEQ takes it to the top of the next iteration, where `LS.input` is it (R268, R269). -/
structure ReadbackInv (s : State) : Prop where
  undriven : Undriven s
  latched : s.seqPc = 5 → ReadsBack s.pindir s.pinout s.isr
  queued : ∀ w, s.rxq = [w] → ReadsBack s.lsDirection s.lsOutput w
  received : s.hostProg = exchange.drop 3 ∨ s.hostProg = [] ∨ s.hostProg = bootProg →
    ReadsBack s.lsDirection s.lsOutput s.lsInput

end Sys2Proof.Safety
end

