-- ==== Sys2Proof/Certificates/Slice0/Obligations.lean ====
section
/-! DEFINITION. The statements for the provers. Each docstring names the rule of spec/ it formalises. An equation
`exec i s = .next (...)` with a record update is also the frame of the instruction: every field the update
does not name is as before. The block has no data memory (R70), so no statement speaks of one. -/

open Sys2Proof Sys2Proof.Machine Sys2Proof.Safety

/-! ### Micro-operations -/

/-- R141: the word, its two steps, and what PULL does with TXQ empty and not. -/
def Obligations.PullTakesTheHead : Prop :=
  (decodeMicro 0x80A0#16 = .ok .pull ∧ microprogram[0] = 0x80A0#16 ∧ microprogram[2] = 0x80A0#16) ∧
  (∀ (s : State) (word : Word) (rest : List Word), s.txq = word :: rest →
    exec .pull s = .next { s with osr := word, txq := rest, seqPc := s.seqPc + 1 }) ∧
  (∀ s : State, s.txq = [] → exec .pull s = .next s)

/-- R143 (with R151 and R152 for the levels): `d`, the word in OSR, is applied to all pins in one step. -/
def Obligations.OutPindirsAppliesTheWord : Prop :=
  (decodeMicro 0x6080#16 = .ok .outPindirs ∧ microprogram[1] = 0x6080#16) ∧
  ∀ s : State, ∃ t : State, exec .outPindirs s = .next t ∧
    t = { s with pindir := s.osr, osr := 0, level := t.level, draws := s.draws + 1, seqPc := 2 } ∧
    ∀ k : Pin, t.level[k] =
      resolve (s.osr.getLsbD (physPin k)) (s.pinout.getLsbD (physPin k)) s.ext[k] s.padPull[k] s.level[k]
        ((Config.draw s.draws).getLsbD (physPin k))

/-- OUT PINS in one step, by the pseudocode of R145 with the levels of R151. R145 also says that writing the same word as
before changes no level, and R152 speaks of the pins whose inputs of `resolve` change: that every pin is resolved with a
draw even then, so that a floating or contended pin draws anew, is the model's reading (log entry 25). -/
def Obligations.OutPinsAppliesTheWord : Prop :=
  (decodeMicro 0x6000#16 = .ok .outPins ∧ microprogram[3] = 0x6000#16) ∧
  ∀ s : State, ∃ t : State, exec .outPins s = .next t ∧
    t = { s with pinout := s.osr, osr := 0, level := t.level, draws := s.draws + 1, seqPc := 4 } ∧
    ∀ k : Pin, t.level[k] =
      resolve (s.pindir.getLsbD (physPin k)) (s.osr.getLsbD (physPin k)) s.ext[k] s.padPull[k] s.level[k]
        ((Config.draw s.draws).getLsbD (physPin k))

/-- R147, R148: every PinSet pin is resolved and sampled; the other six bits of the sample are draws. -/
def Obligations.InPinsSamplesEveryPin : Prop :=
  (decodeMicro 0x4000#16 = .ok .inPins ∧ microprogram[4] = 0x4000#16) ∧
  ∀ s : State, ∃ t : State, exec .inPins s = .next t ∧
    t = { s with isr := t.isr, level := t.level, draws := s.draws + 1, seqPc := 5 } ∧
    (∀ k : Pin, t.level[k] =
      resolve (s.pindir.getLsbD (physPin k)) (s.pinout.getLsbD (physPin k)) s.ext[k] s.padPull[k] s.level[k]
        ((Config.draw s.draws).getLsbD (physPin k))) ∧
    (∀ k : Pin, t.isr.getLsbD (physPin k) = t.level[k]) ∧
    (∀ p ∈ [23, 24, 25, 29, 30, 31], t.isr.getLsbD p = (Config.draw s.draws).getLsbD p)

/-- R149, R150. -/
def Obligations.PushAppendsTheSample : Prop :=
  (decodeMicro 0x8020#16 = .ok .push ∧ microprogram[5] = 0x8020#16) ∧
  (∀ s : State, s.rxq.length ≠ s.params.rxqDepthPred.val + 1 →
    exec .push s = .next { s with rxq := s.rxq ++ [s.isr], isr := 0, seqPc := 0 }) ∧
  (∀ s : State, s.rxq.length = s.params.rxqDepthPred.val + 1 → exec .push s = .next s)

/-- R151, case by case: contention and a floating input give the draw. -/
def Obligations.ResolveFollowsTheTable : Prop :=
  ∀ (out : Bool) (e : Drive) (pull : PullMode) (held fresh : Bool),
    resolve true out .z pull held fresh = out ∧
    resolve true false .d0 pull held fresh = false ∧
    resolve true true .d1 pull held fresh = true ∧
    resolve true true .d0 pull held fresh = fresh ∧
    resolve true false .d1 pull held fresh = fresh ∧
    resolve false out .d0 pull held fresh = false ∧
    resolve false out .d1 pull held fresh = true ∧
    resolve false out .z .up held fresh = true ∧
    resolve false out .z .down held fresh = false ∧
    resolve false out .z .keep held fresh = held ∧
    resolve false out .z .none held fresh = fresh ∧
    (e ≠ .z → ∀ (other : PullMode) (held' : Bool),
      resolve false out e pull held fresh = resolve false out e other held' fresh)

/-! ### Window accesses -/

/-- R180: the code, the hold of R188 (5), and the value read. -/
def Obligations.CtrlReadGivesTheEnable : Prop :=
  ∀ (x : HostVar) (v : Word) (s : State),
    decodeAccess 0x0000#13 x v = .ok (.ctrlRd x) ∧
    (s.mapBusy ≠ none → exec (.ctrlRd x) s = .next s) ∧
    (s.mapBusy = none → exec (.ctrlRd x) s = .next (setVar x (if s.seqEn then 1#32 else 0#32) s))

/-- R181: the code, the hold of R188 (5), and the four cases of a CTRL write. -/
def Obligations.CtrlWriteStartsOrIsRefused : Prop :=
  ∀ (x : HostVar) (v : Word) (s : State),
    decodeAccess 0x1000#13 x v = .ok (.ctrlWr v) ∧
    (s.mapBusy ≠ none → exec (.ctrlWr v) s = .next s) ∧
    (s.mapBusy = none →
      (v = 1#32 → exec (.ctrlWr v) s = .next { s with seqEn := true }) ∧
      (v = 0#32 → s.seqEn = false → exec (.ctrlWr v) s = .next s) ∧
      (v = 0#32 → s.seqEn = true → exec (.ctrlWr v) s =
        .next { s with refused := true, reasons := s.reasons.insert .seqStop }) ∧
      (v ≠ 0#32 → v ≠ 1#32 → exec (.ctrlWr v) s =
        .next { s with refused := true, reasons := s.reasons.insert .ctrlReservedBits }))

/-- R182: STATUS field by field; the read changes nothing but its variable. -/
def Obligations.StatusReadReportsTheQueues : Prop :=
  ∀ (x : HostVar) (v : Word) (s : State),
    decodeAccess 0x0004#13 x v = .ok (.statusRd x) ∧
    (s.mapBusy ≠ none → exec (.statusRd x) s = .next s) ∧
    (s.mapBusy = none → ∃ status : Word, exec (.statusRd x) s = .next (setVar x status s) ∧
      (status.getLsbD 0 = true ↔ s.txq.length = s.params.txqDepthPred.val + 1) ∧
      (status.getLsbD 1 = true ↔ s.txq.length = 0) ∧
      (status.getLsbD 2 = true ↔ s.rxq.length = s.params.rxqDepthPred.val + 1) ∧
      (status.getLsbD 3 = true ↔ s.rxq.length = 0) ∧
      status.getLsbD 4 = false ∧
      status.extractLsb' 5 3 = 0#3 ∧
      status.extractLsb' 8 8 = BitVec.ofNat 8 s.txq.length ∧
      status.extractLsb' 16 8 = BitVec.ofNat 8 s.rxq.length ∧
      status.extractLsb' 24 8 = 0#8)

/-- R184. -/
def Obligations.TxfWriteAppendsOrOverflows : Prop :=
  ∀ (x : HostVar) (v : Word) (s : State),
    decodeAccess 0x1008#13 x v = .ok (.txfWr v) ∧
    (s.mapBusy ≠ none → exec (.txfWr v) s = .next s) ∧
    (s.mapBusy = none → s.txq.length ≠ s.params.txqDepthPred.val + 1 →
      exec (.txfWr v) s = .next { s with txq := s.txq ++ [v] }) ∧
    (s.mapBusy = none → s.txq.length = s.params.txqDepthPred.val + 1 →
      exec (.txfWr v) s = .next { s with faults := s.faults.insert (.txOverflow v) })

/-- R186. -/
def Obligations.RxfReadRemovesTheHeadOrUnderflows : Prop :=
  ∀ (x : HostVar) (v : Word) (s : State),
    decodeAccess 0x000C#13 x v = .ok (.rxfRd x) ∧
    (s.mapBusy ≠ none → exec (.rxfRd x) s = .next s) ∧
    (s.mapBusy = none → ∀ (word : Word) (rest : List Word), s.rxq = word :: rest →
      exec (.rxfRd x) s = .next (setVar x word { s with rxq := rest })) ∧
    (s.mapBusy = none → s.rxq = [] →
      exec (.rxfRd x) s = .next { s with faults := s.faults.insert .rxUnderflow })

/-- R214, R219: the write compares all 32 bits with the word held before, keeps the other group's word and flag, and
starts a reconfiguration exactly when a bit differs. -/
def Obligations.PullAWriteComparesAndStarts : Prop :=
  ∀ (x : HostVar) (w : Word) (s : State),
    decodeAccess 0x1010#13 x w = .ok (.pullAWr w) ∧
    (s.mapBusy ≠ none → exec (.pullAWr w) s = .next s) ∧
    (s.mapBusy = none → w ≠ s.pullA → exec (.pullAWr w) s =
      .next { s with pullA := w, pullChg := s.pullChg ||| 0b01#2, mapBusy := some ⟨.a, w, 0⟩ }) ∧
    (s.mapBusy = none → w = s.pullA → exec (.pullAWr w) s = .next { s with pullChg := s.pullChg &&& 0b10#2 })

/-- R215, R219: the same of Group B. -/
def Obligations.PullBWriteComparesAndStarts : Prop :=
  ∀ (x : HostVar) (w : Word) (s : State),
    decodeAccess 0x1014#13 x w = .ok (.pullBWr w) ∧
    (s.mapBusy ≠ none → exec (.pullBWr w) s = .next s) ∧
    (s.mapBusy = none → w ≠ s.pullB → exec (.pullBWr w) s =
      .next { s with pullB := w, pullChg := s.pullChg ||| 0b10#2, mapBusy := some ⟨.b, w, 0⟩ }) ∧
    (s.mapBusy = none → w = s.pullB → exec (.pullBWr w) s = .next { s with pullChg := s.pullChg &&& 0b01#2 })

/-- R216, R217, R218. -/
def Obligations.PullReadsReturnWordsAndFlags : Prop :=
  ∀ (x : HostVar) (v : Word) (s : State),
    (decodeAccess 0x0010#13 x v = .ok (.pullARd x) ∧ decodeAccess 0x0014#13 x v = .ok (.pullBRd x) ∧
      decodeAccess 0x0018#13 x v = .ok (.pullChgRd x)) ∧
    (s.mapBusy ≠ none →
      exec (.pullARd x) s = .next s ∧ exec (.pullBRd x) s = .next s ∧ exec (.pullChgRd x) s = .next s) ∧
    (s.mapBusy = none →
      exec (.pullARd x) s = .next (setVar x s.pullA s) ∧
      exec (.pullBRd x) s = .next (setVar x s.pullB s) ∧
      exec (.pullChgRd x) s = .next (setVar x (BitVec.ofNat 32 s.pullChg.toNat) s))

/-- What `x <- v` does, for each HOST variable: that variable and no other is written (R61, R116). -/
def Obligations.ReadDestinationIsWrittenAlone : Prop :=
  ∀ (v : Word) (s : State),
    (∀ x y : HostVar, getVar y (setVar x v s) = if y = x then v else getVar y s) ∧
    (∀ x : HostVar, setVar x v s =
      { s with
        varT := getVar .varT (setVar x v s), varX := getVar .varX (setVar x v s)
        varC := getVar .varC (setVar x v s), lsDirection := getVar .lsDirection (setVar x v s)
        lsOutput := getVar .lsOutput (setVar x v s), lsInput := getVar .lsInput (setVar x v s) })

/-- R220, R188 (5): while a reconfiguration runs, every window access holds. -/
def Obligations.EveryAccessHoldsWhileMapRuns : Prop :=
  ∀ (code : BitVec 13) (x : HostVar) (v : Word) (i : Instr) (s : State),
    decodeAccess code x v = .ok i → s.mapBusy ≠ none → exec i s = .next s

/-- R188: one HOST step of a bus access at an offset of the window, in the order of its checks: width, alignment,
reserved offset, direction, the hold of MAP, and the rule of the register, whose instruction is the one of the
access code `{W, OFF}`. That HOST goes on to `rest` after a refusal is the model's reading (log entry 12). -/
def Obligations.BusAccessIsCheckedInOrder : Prop :=
  ∀ (s : State) (write : Bool) (off width : Nat) (x : HostVar) (v : HostVal) (rest : List HostOp),
    turnNow s = .host → s.hostProg = .bus write (4 * s.params.blockBaseWord + off) width x v :: rest →
    (width ≠ 32 → step s = .next { refuse .badWidth (tookTurn s) with hostProg := rest }) ∧
    (width = 32 → off % 4 ≠ 0 → step s = .next { refuse .misalignedAccess (tookTurn s) with hostProg := rest }) ∧
    (width = 32 → off % 4 = 0 → 0x1C ≤ off →
      step s = .next { refuse .reservedOffset (tookTurn s) with hostProg := rest }) ∧
    (width = 32 → write = true → off ∈ [0x04, 0x0C, 0x18] →
      step s = .next { refuse .writeReadOnly (tookTurn s) with hostProg := rest }) ∧
    (width = 32 → write = false → off = 0x08 →
      step s = .next { refuse .readWriteOnly (tookTurn s) with hostProg := rest }) ∧
    (width = 32 → off % 4 = 0 → off < 0x1C → (write = true → off ∉ [0x04, 0x0C, 0x18]) →
      (write = false → off ≠ 0x08) →
      ∃ i : Instr, decodeAccess (BitVec.ofBool write ++ BitVec.ofNat 12 off) x (getVal v s) = .ok i ∧
        (s.mapBusy ≠ none → step s = .next (tookTurn s)) ∧
        (s.mapBusy = none → ∃ t : State, exec i (tookTurn s) = .next t ∧ step s = .next { t with hostProg := rest }))

/-- R189, R302: a refused access sets `REFUSED`, names its reason, and changes no other element; HOST goes on, which is
the model's reading (log entry 12). -/
def Obligations.RefusedAccessChangesNothingElse : Prop :=
  ∀ (s : State) (code : BitVec 13) (x : HostVar) (v : HostVal) (rest : List HostOp) (r : RefuseReason),
    turnNow s = .host → s.hostProg = .access code x v :: rest → decodeAccess code x (getVal v s) = .error r →
    step s = .next { tookTurn s with hostProg := rest, refused := true, reasons := s.reasons.insert r }

/-! ### Steps -/

/-- R140, R72: a SEQ step fetches the word of its step index and runs the micro-operation it decodes to. -/
def Obligations.SeqStepRunsTheDecodedWord : Prop :=
  ∀ (s : State) (word : BitVec 16) (i : Instr),
    turnNow s = .seq → s.seqEn = true → s.refused = false →
    s.seqProg[s.seqPc.toNat]? = some word → decodeMicro word = .ok i →
    step s = exec i (tookTurn s)

/-- R140, R104: SEQ has no step while it is not started or something was refused, and a fetched word outside the
five sets `REFUSED`. -/
def Obligations.SeqWithoutAStepOrAnAdmittedWord : Prop :=
  ∀ s : State, turnNow s = .seq →
    (s.seqEn = false ∨ s.refused = true → step s = .next (tookTurn s)) ∧
    (∀ word : BitVec 16, s.seqEn = true → s.refused = false → s.seqProg[s.seqPc.toNat]? = some word →
      word ∉ [0x80A0#16, 0x6080#16, 0x6000#16, 0x4000#16, 0x8020#16] →
      step s = .next { tookTurn s with
        refused := true, reasons := s.reasons.insert (.unknownMicroword s.seqPc word) })

/-- R188: a HOST step runs the access its program stands at, unless the access holds. That HOST then goes on to the rest
of its program also where the access was refused (CtrlReservedBits, SeqStop) or faulted (TxOverflow, RxUnderflow) is
the model's reading (log entry 12). -/
def Obligations.HostStepRunsTheDecodedAccess : Prop :=
  ∀ (s : State) (code : BitVec 13) (x : HostVar) (v : HostVal) (rest : List HostOp) (i : Instr),
    turnNow s = .host → s.hostProg = .access code x v :: rest → decodeAccess code x (getVal v s) = .ok i →
    (s.mapBusy = none → ∃ t : State, exec i (tookTurn s) = .next t ∧ step s = .next { t with hostProg := rest }) ∧
    (s.mapBusy ≠ none → step s = .next (tookTurn s))

/-- R222: one MAP step visits one index. -/
def Obligations.MapStepVisitsOneIndex : Prop :=
  ∀ s : State, turnNow s = .map →
    (s.mapBusy = none → step s = .next (tookTurn s)) ∧
    (∀ (g : Group) (w : Word) (i : Fin 16), s.mapBusy = some ⟨g, w, i⟩ →
      ∃ t : State, step s = .next t ∧
        t = { tookTurn s with mapBusy := t.mapBusy, padPull := t.padPull, level := t.level, draws := t.draws } ∧
        t.mapBusy = (if i = 15 then none else some ⟨g, w, i + 1⟩) ∧
        (groupPin g i = none → t.padPull = s.padPull ∧ t.level = s.level) ∧
        (∀ k : Pin, groupPin g i = some k →
          t.padPull = s.padPull.set k (decodePull (pullCode w i)) ∧
          (∀ j : Pin, j ≠ k → t.level[j] = s.level[j]) ∧
          t.level[k] = resolve (s.pindir.getLsbD (physPin k)) (s.pinout.getLsbD (physPin k)) s.ext[k]
            (decodePull (pullCode w i)) s.level[k] ((Config.draw s.draws).getLsbD (physPin k))))

/-- R42, R152: a change of the external drive re-resolves the pins whose drive changed, and nothing else. -/
def Obligations.EnvChangesDriveAndLevelsOnly : Prop :=
  ∀ (s : State) (change : PinMap (Option Drive)), turnNow s = .env (.drive change) →
    ∃ t : State, step s = .next t ∧
      t = { tookTurn s with ext := t.ext, level := t.level, draws := t.draws } ∧
      ∀ k : Pin,
        (change[k] = none → t.ext[k] = s.ext[k]) ∧
        (∀ e : Drive, change[k] = some e → t.ext[k] = e) ∧
        (t.ext[k] = s.ext[k] → t.level[k] = s.level[k]) ∧
        (t.ext[k] ≠ s.ext[k] → t.level[k] =
          resolve (s.pindir.getLsbD (physPin k)) (s.pinout.getLsbD (physPin k)) t.ext[k] s.padPull[k] s.level[k]
            ((Config.draw s.draws).getLsbD (physPin k)))

/-! ### Encodings -/

/-- R103, R107: the words of the tables, a few of each space. -/
def Obligations.TableWordsDecode : Prop :=
  decodeMicro 0b1000000010100000#16 = .ok .pull ∧
  decodeMicro 0b0110000010000000#16 = .ok .outPindirs ∧
  decodeMicro 0b1000000000100000#16 = .ok .push ∧
  decodeAccess 0b0000000000100#13 .varX 0 = .ok (.statusRd .varX) ∧
  decodeAccess 0b1000000001000#13 .varX 5 = .ok (.txfWr 5) ∧
  decodeAccess 0b1000000010100#13 .varX 5 = .ok (.pullBWr 5)

/-- R102, R107: decoding an encoded instruction gives it back, with every operand at every value. -/
def Obligations.DecodeOfEncode : Prop := ∀ i : Instr, decode (encode i) = some i

/-- R104, R105, R107: an admitted word or code is the encoding of the instruction it decodes to, so no two words
decode to one instruction and "Every other code is refused". -/
def Obligations.AdmittedWordsAreTheEncodings : Prop :=
  (∀ (w : BitVec 16) (i : Instr), decodeMicro w = .ok i → encode i = .micro w) ∧
  (∀ (code : BitVec 13) (x : HostVar) (v : Word) (i : Instr), decodeAccess code x v = .ok i →
    ∃ (x' : HostVar) (v' : Word), encode i = .access code x' v')

/-- R11, R41, R211: the four masks and their bits, the numbering of the pins, and the maps of the two groups. -/
def Obligations.MasksAreThePinsAndFields : Prop :=
  (seqMask = 0x1C7FFFFF#32 ∧ groupAMask = 0xFFFFFFFF#32 ∧ groupBMask = 0x03F03FFF#32 ∧
    inputMeaningful = 0x3FFFFFFF#32) ∧
  (∀ p : Nat, (seqMask.getLsbD p = true ↔ ∃ k : Pin, physPin k = p) ∧
    (seqMask.getLsbD p = true ↔ p ≤ 22 ∨ (26 ≤ p ∧ p ≤ 28)) ∧ (inputMeaningful.getLsbD p = true ↔ p ≤ 29)) ∧
  (∀ i : Fin 16,
    groupAMask.extractLsb' (2 * i.val) 2 = (if (groupPin .a i).isSome then 0b11#2 else 0b00#2) ∧
    groupBMask.extractLsb' (2 * i.val) 2 = (if (groupPin .b i).isSome then 0b11#2 else 0b00#2)) ∧
  (∀ (w : Word) (i : Fin 16) (b : Nat), b < 2 → (pullCode w i).getLsbD b = w.getLsbD (2 * i.val + b)) ∧
  (∀ k : Pin,
    (k.val ≤ 22 → physPin k = k.val) ∧ (23 ≤ k.val → physPin k = k.val + 3) ∧
    (∀ i : Fin 16, k.val ≤ 15 → i.val = k.val → groupPin .a i = some k) ∧
    (∀ i : Fin 16, 16 ≤ k.val → i.val = physPin k - 16 → groupPin .b i = some k)) ∧
  (∀ i : Fin 16, (groupPin .a i).isSome = true) ∧
  (∀ i : Fin 16, (groupPin .b i).isSome = true ↔ i.val ≤ 6 ∨ (10 ≤ i.val ∧ i.val ≤ 12)) ∧
  (∀ (g : Group) (i : Fin 16) (k : Pin), groupPin g i = some k →
    physPin k = match g with | .a => i.val | .b => 16 + i.val) ∧
  (∀ k : Pin, ∃ (g : Group) (i : Fin 16), groupPin g i = some k ∧
    ∀ (g' : Group) (i' : Fin 16), groupPin g' i' = some k → g' = g ∧ i' = i)

/-- R212, R213: the code of an index is the two bits of the word at `2i`, each of the four codes names its mode, and a
code placed back at its field gives those two bits. -/
def Obligations.PullCodeRoundTrip : Prop :=
  (∀ (w : Word) (i : Fin 16), (pullCode w i).setWidth 32 = (w >>> (2 * i.val)) &&& 0b11#32) ∧
  (decodePull 0 = .none ∧ decodePull 1 = .up ∧ decodePull 2 = .down ∧ decodePull 3 = .keep) ∧
  (∀ (w : Word) (i : Fin 16) (p : Nat),
    (placeCode (pullCode w i) i).getLsbD p = (decide (p = 2 * i.val ∨ p = 2 * i.val + 1) && w.getLsbD p))

/-! ### Invariants -/

/-- R63: the invariant of the block holds when it leaves reset. -/
def Obligations.BlockInvAtReset : Prop := BlockInv State.reset

/-- R31, R35, R49, R59: every step of every agent keeps the invariant of the block. -/
def Obligations.StepKeepsBlockInv : Prop :=
  ∀ s t : State, BlockInv s → step s = .next t → BlockInv t

/-- R45, R214, R222: when the pads of the groups whose flag is set follow the pull words, they still do after any
step. -/
def Obligations.StepKeepsPadsFollowShadow : Prop :=
  ∀ s t : State, BlockInv s → PadsFollowShadow s → step s = .next t → PadsFollowShadow t

/-- R345, R267: the reference loop begins with its invariant. -/
def Obligations.LoopInvAtReset : Prop := LoopInv State.reset

/-- R267, R193: under every interleaving, a step of the reference loop is a next state that keeps the loop's
invariant; so it never faults and nothing in it is refused. -/
def Obligations.StepKeepsLoopInv : Prop :=
  ∀ s : State, LoopInv s → ∃ t : State, step s = .next t ∧ LoopInv t

/-- R267: every run from a state of the reference loop goes on without a fault or a refusal, with at most two words in
TXQ and one in RXQ; at the top of an iteration both queues are empty, MAP is idle and SEQ stands at step 0; and SEQ
stands at step 0 with TXQ empty while a reconfiguration runs. -/
def Obligations.LoopRunsKeepQueuesShort : Prop :=
  ∀ (s : State) (n : Nat), LoopInv s → ∃ t : State, Host.Core.run core n s = .next t ∧ Clean t ∧
    t.txq.length ≤ 2 ∧ t.rxq.length ≤ 1 ∧
    (t.hostProg = [] → t.txq = [] ∧ t.rxq = [] ∧ t.mapBusy = none ∧ t.seqPc = 0) ∧
    (t.mapBusy ≠ none → t.txq = [] ∧ t.seqPc = 0)

/-- R268, R269: in the reference loop with no pin driven from outside, the sample HOST receives reads back, at every
output pin, the pair of the same iteration. -/
def Obligations.LoopSamplesReadBackTheirPair : Prop :=
  ∀ s t : State, LoopInv s → ReadbackInv s → (∀ change, turnNow s ≠ .env (.drive change)) →
    step s = .next t → ReadbackInv t

/-! ### Rules of the whole machine -/

/-- R30, R79: only SEQ removes from TXQ and only at its head, only HOST appends to it, and the reverse for RXQ. -/
def Obligations.QueuesAreFifo : Prop :=
  ∀ s t : State, step s = .next t →
    (t.txq = s.txq ∨
      (turnNow s = .seq ∧ s.txq = t.osr :: t.txq) ∨
      (turnNow s = .host ∧ ∃ v, t.txq = s.txq ++ [v])) ∧
    (t.rxq = s.rxq ∨
      (turnNow s = .seq ∧ t.rxq = s.rxq ++ [s.isr]) ∨
      (turnNow s = .host ∧ ∃ v, s.rxq = v :: t.rxq))

/-- R33 to R45: who writes what. SEQ alone writes its latches, its index and the pin words, MAP alone the pads,
ENV alone the external drive, HOST alone the pull words, the flags, the enable and its own variables. -/
def Obligations.EachAgentWritesItsOwn : Prop :=
  ∀ s t : State, step s = .next t →
    (turnNow s ≠ .seq →
      t.osr = s.osr ∧ t.isr = s.isr ∧ t.seqPc = s.seqPc ∧ t.pindir = s.pindir ∧ t.pinout = s.pinout) ∧
    (turnNow s ≠ .map → t.padPull = s.padPull) ∧
    ((∀ e, turnNow s ≠ .env e) → t.ext = s.ext) ∧
    (turnNow s ≠ .host →
      t.pullA = s.pullA ∧ t.pullB = s.pullB ∧ t.pullChg = s.pullChg ∧ t.seqEn = s.seqEn ∧ t.faults = s.faults ∧
      t.lsDirection = s.lsDirection ∧ t.lsOutput = s.lsOutput ∧ t.lsInput = s.lsInput ∧
      t.varT = s.varT ∧ t.varX = s.varX ∧ t.varC = s.varC ∧ t.hostProg = s.hostProg) ∧
    (turnNow s = .host → t.level = s.level)

/-- R36, R49, R59, R84: the sequencer once started stays so, no mark is cleared, no step writes the program or the
parameters. -/
def Obligations.MarksStayAndProgramIsFixed : Prop :=
  ∀ s t : State, step s = .next t →
    (s.seqEn = true → t.seqEn = true) ∧ (s.refused = true → t.refused = true) ∧
    (∀ f ∈ s.faults, f ∈ t.faults) ∧ (∀ r ∈ s.reasons, r ∈ t.reasons) ∧
    t.seqProg = s.seqProg ∧ t.params = s.params

/-- R48, R220, R222: a running reconfiguration is advanced by MAP and changed by no one else. -/
def Obligations.OnlyMapAdvancesAJob : Prop :=
  ∀ (s t : State) (g : Group) (w : Word) (i : Fin 16), s.mapBusy = some ⟨g, w, i⟩ → step s = .next t →
    t.mapBusy =
      if turnNow s = .map then (if i = 15 then none else some ⟨g, w, i + 1⟩) else some ⟨g, w, i⟩

/-- R183: room in TXQ and a sample in RXQ, once seen, stay until HOST's own next step. -/
def Obligations.RoomAndSamplesStayForHost : Prop :=
  ∀ s t : State, step s = .next t → turnNow s ≠ .host →
    (s.txq.length < txqDepth s → t.txq.length < txqDepth t) ∧ (s.rxq ≠ [] → t.rxq ≠ [])

/-- R301, R302, R307: no step of a good state faults, and the only one refused is a HOST access that is not to
the block at all. -/
def Obligations.NoStepStopsInsideTheBlock : Prop :=
  ∀ s : State, BlockInv s →
    (∃ t, step s = .next t) ∨
    (turnNow s = .host ∧ ∃ addr, step s = .refused (.outsideBlock addr) ∧ addr < 4 * s.params.blockBaseWord)

/-! ### Runs -/

/-- R158: one pass of SEQ through its program, with no other agent's step between. A pad that keeps the level holds
the one from before the pass. -/
def Obligations.OnePassAppliesThePairAndSamples : Prop :=
  ∀ (s : State) (d o : Word) (rest : List Word) (later : List Turn),
    s.sched = List.replicate 6 .seq ++ later → s.seqEn = true → s.refused = false → s.seqProg = microprogram →
    s.seqPc = 0 → s.txq = d :: o :: rest → s.rxq.length < rxqDepth s →
    ∃ t : State, Host.Core.run core 6 s = .next t ∧
      t = { s with
        sched := later, txq := rest, rxq := t.rxq, pindir := d, pinout := o, osr := 0, isr := 0
        level := t.level, draws := t.draws } ∧
      ∃ sample : Word, t.rxq = s.rxq ++ [sample] ∧
        ∀ k : Pin, sample.getLsbD (physPin k) = t.level[k] ∧
          ∃ fresh : Bool, t.level[k] =
            resolve (d.getLsbD (physPin k)) (o.getLsbD (physPin k)) s.ext[k] s.padPull[k] s.level[k] fresh

/-- R158, the loopback of the source's section 8: all pins outputs, none driven from outside. -/
def Obligations.LoopbackSampleUnderTheMask : Prop :=
  ∀ (s : State) (rest : List Word) (later : List Turn),
    s.sched = List.replicate 6 .seq ++ later → s.seqEn = true → s.refused = false → s.seqProg = microprogram →
    s.seqPc = 0 → s.txq = 0xFFFFFFFF#32 :: 0xAAAAAAAA#32 :: rest → s.rxq = [] → Undriven s →
    ∃ (t : State) (sample : Word), Host.Core.run core 6 s = .next t ∧ t.rxq = [sample] ∧
      sample &&& seqMask = 0x082AAAAA#32

/-- R222, R223, R225: sixteen MAP steps finish a reconfiguration; every mapped pad of the group holds its code's
mode and every other pad is untouched. -/
def Obligations.SixteenMapStepsApplyTheWord : Prop :=
  ∀ (s : State) (g : Group) (w : Word) (later : List Turn),
    s.sched = List.replicate 16 .map ++ later → s.mapBusy = some ⟨g, w, 0⟩ →
    ∃ t : State, Host.Core.run core 16 s = .next t ∧ t.mapBusy = none ∧ t.sched = later ∧
      (∀ i k, groupPin g i = some k → t.padPull[k] = decodePull (pullCode w i)) ∧
      (∀ k : Pin, (∀ i, groupPin g i ≠ some k) → t.padPull[k] = s.padPull[k] ∧ t.level[k] = s.level[k])

/-- R225: two Group B words that differ only in unmapped fields leave the pads alike. -/
def Obligations.UnmappedFieldsReachNoPad : Prop :=
  ∀ (s s' t t' : State) (w w' : Word) (later later' : List Turn),
    s.sched = List.replicate 16 .map ++ later → s'.sched = List.replicate 16 .map ++ later' →
    s.mapBusy = some ⟨.b, w, 0⟩ → s'.mapBusy = some ⟨.b, w', 0⟩ → s.padPull = s'.padPull →
    w &&& groupBMask = w' &&& groupBMask →
    Host.Core.run core 16 s = .next t → Host.Core.run core 16 s' = .next t' → t.padPull = t'.padPull

/-- R228, R371: a reconfiguration that has started ends. In a run that goes on it ends by MAP's sixteenth turn; and since
MAP always gets another turn, it ends after finitely many steps of the whole system, in every block whose HOST
program keeps to the window. -/
def Obligations.StartedReconfigurationEnds : Prop :=
  (∀ (s t : State) (turns later : List Turn),
    s.sched = turns ++ later → 16 ≤ turns.count .map → s.mapBusy ≠ none →
    Host.Core.run core turns.length s = .next t →
    ∃ (k : Nat) (u : State), k ≤ turns.length ∧ Host.Core.run core k s = .next u ∧ u.mapBusy = none) ∧
  (∀ s : State, BlockInv s → HostStaysInside s → s.mapBusy ≠ none →
    ∃ (k : Nat) (u : State), Host.Core.run core k s = .next u ∧ u.mapBusy = none)

/-- R190, R191: `send` and `recv` hold or take effect in one step, and never fault. -/
def Obligations.SendAndRecvHoldOrComplete : Prop :=
  ∀ (s : State) (rest : List HostOp), turnNow s = .host →
    (∀ v : HostVal, s.hostProg = .send v :: rest →
      (s.mapBusy ≠ none ∨ s.txq.length = txqDepth s → step s = .next (tookTurn s)) ∧
      (s.mapBusy = none → s.txq.length ≠ txqDepth s →
        step s = .next { tookTurn s with hostProg := rest, txq := s.txq ++ [getVal v s] })) ∧
    (∀ x : HostVar, s.hostProg = .recv x :: rest →
      (s.mapBusy ≠ none ∨ s.rxq = [] → step s = .next (tookTurn s)) ∧
      (∀ (word : Word) (more : List Word), s.mapBusy = none → s.rxq = word :: more →
        step s = .next (setVar x word { tookTurn s with hostProg := rest, rxq := more })))

/-- R116, R183, R190, R191: the poll of STATUS stays while MAP runs and, once its bit is read, while the bit is 1; with
room in TXQ the expansion of `send`, and with a sample in RXQ that of `recv`, do in two HOST steps what `send` and
`recv` do in one, but for the variable `t` the STATUS read writes (which is what `send t` and `recv t` then use). That the
read and its branch are one step is the model's reading (log entry 16). -/
def Obligations.SendAndRecvExpansionsAgree : Prop :=
  ∀ (s : State) (rest : List HostOp), turnNow s = .host →
    (∀ bit : Nat, s.hostProg = .waitStatus bit :: rest →
      (s.mapBusy ≠ none → step s = .next (tookTurn s)) ∧
      (s.mapBusy = none → (statusWord s).getLsbD bit = true →
        step s = .next { tookTurn s with varT := statusWord s }) ∧
      (s.mapBusy = none → (statusWord s).getLsbD bit = false →
        step s = .next { tookTurn s with varT := statusWord s, hostProg := rest })) ∧
    (∀ v : HostVal, turnNow (tookTurn s) = .host → s.hostProg = expandSend v ++ rest → s.mapBusy = none →
      s.txq.length < txqDepth s →
      Host.Core.run core 2 s = .next { tookTurn (tookTurn s) with
        hostProg := rest, varT := statusWord s
        txq := s.txq ++ [if v = .var .varT then statusWord s else getVal v s] }) ∧
    (∀ (x : HostVar) (word : Word) (more : List Word), turnNow (tookTurn s) = .host →
      s.hostProg = expandRecv x ++ rest → s.mapBusy = none → s.rxq = word :: more →
      Host.Core.run core 2 s = .next (setVar x word { tookTurn (tookTurn s) with
        hostProg := rest, varT := statusWord s, rxq := more }))

/-- R311 (1): after one word of a pair, with nothing more sent, neither SEQ, MAP nor HOST can move the block. -/
def Obligations.HalfAPairHangs : Prop :=
  ∀ (s : State) (x : HostVar) (rest : List HostOp) (turns later : List Turn),
    s.sched = turns ++ later → (∀ turn ∈ turns, ∀ e, turn ≠ .env e) →
    s.hostProg = .recv x :: rest → s.mapBusy = none → s.rxq = [] → s.txq = [] →
    s.seqProg = microprogram → s.seqPc = 2 →
    Host.Core.run core turns.length s = .next { s with sched := later }

/-- R305: a TXF write and a PULL, or an RXF read and a PUSH, in either order leave the same state. -/
def Obligations.QueueStepsCommute : Prop :=
  ∀ (s : State) (later : List Turn) (rest : List HostOp),
    s.seqEn = true → s.refused = false → s.mapBusy = none →
    (∀ (w v : Word) (more : List Word),
      s.seqProg[s.seqPc.toNat]? = some 0x80A0#16 → s.txq = w :: more → s.txq.length < txqDepth s →
      s.hostProg = wrTxf (.lit v) :: rest →
      ∃ t : State, t.osr = w ∧ t.txq = more ++ [v] ∧
        Host.Core.run core 2 { s with sched := .seq :: .host :: later } = .next t ∧
        Host.Core.run core 2 { s with sched := .host :: .seq :: later } = .next t) ∧
    (∀ (x : HostVar) (w : Word) (more : List Word),
      s.seqProg[s.seqPc.toNat]? = some 0x8020#16 → s.rxq = w :: more → s.rxq.length < rxqDepth s →
      s.hostProg = rdRxf x :: rest →
      ∃ t : State, getVar x t = w ∧ t.rxq = more ++ [s.isr] ∧
        Host.Core.run core 2 { s with sched := .seq :: .host :: later } = .next t ∧
        Host.Core.run core 2 { s with sched := .host :: .seq :: later } = .next t)

/-! ### Pins and pulls -/

/-- R144: direction and output bits outside the PinSet drive nothing. -/
def Obligations.BitsOutsideThePinSetDriveNothing : Prop :=
  ∀ (s : State) (d o fresh : Word) (k : Pin),
    d &&& seqMask = s.pindir &&& seqMask → o &&& seqMask = s.pinout &&& seqMask →
    resolvePin { s with pindir := d, pinout := o } fresh k = resolvePin s fresh k

/-- R226: a pad's pull affects its pin only while the pin is an undriven input. -/
def Obligations.PullActsOnUndrivenInputsOnly : Prop :=
  ∀ (s : State) (pads : PinMap PullMode) (fresh : Word) (k : Pin),
    s.pindir.getLsbD (physPin k) = true ∨ s.ext[k] ≠ .z →
    resolvePin { s with padPull := pads } fresh k = resolvePin s fresh k

/-- R352, R341: after reset a zero pull word starts no reconfiguration, so the pads stay at `P_PULL_RESET`. -/
def Obligations.ZeroPullWordAfterResetIsNotApplied : Prop :=
  State.reset.pullA = 0 ∧ State.reset.pullB = 0 ∧
  (∀ k : Pin, State.reset.padPull[k] = Config.padPullReset k) ∧
  exec (.pullAWr 0) State.reset = .next State.reset ∧ exec (.pullBWr 0) State.reset = .next State.reset

/-- R63: what reset leaves; the three per-pin elements are the parameter and the two draws the table names. -/
def Obligations.ResetLeavesTheGivenValues : Prop :=
  State.reset.seqEn = false ∧ State.reset.seqPc = 0 ∧ State.reset.osr = 0 ∧ State.reset.isr = 0 ∧
  State.reset.txq = [] ∧ State.reset.rxq = [] ∧ State.reset.pindir = 0 ∧ State.reset.pinout = 0 ∧
  (∀ k : Pin, State.reset.padPull[k] = Config.padPullReset k ∧ State.reset.level[k] = Config.levelReset k ∧
    State.reset.ext[k] = Config.extReset k) ∧
  State.reset.pullA = 0 ∧ State.reset.pullB = 0 ∧ State.reset.pullChg = 0 ∧ State.reset.mapBusy = none ∧
  State.reset.faults = [] ∧ State.reset.refused = false ∧ State.reset.seqProg = microprogram ∧
  State.reset.lsDirection = 0 ∧ State.reset.lsOutput = 0 ∧ State.reset.lsInput = 0 ∧ State.reset.inBuf = none ∧
  statusWord State.reset = 0x0000000A#32

/-! ### The host side -/

/-- R110, R111, R254: bit by bit, the report formats are little-endian words in the order of the format. -/
def Obligations.ReportBytesAreLittleEndian : Prop :=
  (∀ (b : Vector Byte 16) (i : Fin 32),
    (decodeOutput b).direction.getLsbD i.val = (b[i.val / 8]).getLsbD (i.val % 8) ∧
    (decodeOutput b).pullA.getLsbD i.val = (b[4 + i.val / 8]).getLsbD (i.val % 8) ∧
    (decodeOutput b).pullB.getLsbD i.val = (b[8 + i.val / 8]).getLsbD (i.val % 8) ∧
    (decodeOutput b).output.getLsbD i.val = (b[12 + i.val / 8]).getLsbD (i.val % 8)) ∧
  (∀ (x : Word) (b : Fin 4), (encodeInput x)[b] = x.extractLsb' (8 * b.val) 8)

/-- R252, R253: with no packet sent, `try_pull_output` is no report and changes nothing; a packet of fewer than 16 bytes
is no report and changes nothing but its own arrival; of 16 or more the first 16 bytes are used. A packet the USB
host sends waits for the next call and changes nothing else (log entry 10). -/
def Obligations.ShortPacketIsNoReport : Prop :=
  ∀ s : State,
    (∀ packet : List Byte, turnNow s = .env (.deliver packet) →
      step s = .next { tookTurn s with usbOut := some packet }) ∧
    (∀ rest : List HostOp, turnNow s = .host → s.hostProg = .tryPullOutput :: rest →
      (s.usbOut = none → step s = .next { tookTurn s with hostProg := rest }) ∧
      (∀ packet : List Byte, s.usbOut = some packet →
        (packet.length < 16 → step s = .next { tookTurn s with hostProg := rest, usbOut := none }) ∧
        (16 ≤ packet.length → ∃ b : Vector Byte 16, b.toList = packet.take 16 ∧
          step s = .next { tookTurn s with hostProg := .applyReport b :: rest, usbOut := none })))

/-- R255, R256, R257: applying a report writes the direction and the output unconditionally and then writes Group A
before Group B. -/
def Obligations.ReportIsAppliedWhole : Prop :=
  ∀ (s : State) (rest : List HostOp) (b : Vector Byte 16),
    turnNow s = .host → s.hostProg = .applyReport b :: rest →
    step s = .next { tookTurn s with
      lsDirection := (decodeOutput b).direction
      lsOutput := (decodeOutput b).output
      hostProg := .access 0x1010#13 .varX (.lit (decodeOutput b).pullA) ::
        .access 0x1014#13 .varX (.lit (decodeOutput b).pullB) :: rest }

/-- R251, R258, R262, R263, R265: a poll has no effect on the block, `push_input` replaces what waits, and the USB host's
fetch empties it only after a poll (log entry 11). At the top of the loop HOST polls, and has the whole iteration after
the poll to do: `try_pull_output`, the two sends, the receive and `push_input`. -/
def Obligations.InputReportNewestWins : Prop :=
  ∀ s : State,
    (∀ rest : List HostOp, turnNow s = .host → s.hostProg = .pushInput :: rest →
      step s = .next { tookTurn s with hostProg := rest, inBuf := some (encodeInput s.lsInput) }) ∧
    (∀ rest : List HostOp, turnNow s = .host → s.hostProg = .poll :: rest →
      step s = .next { tookTurn s with hostProg := rest, polled := true }) ∧
    (turnNow s = .host → s.hostProg = [] → step s = .next { tookTurn s with
      polled := true
      hostProg := [.tryPullOutput, .send (.var .lsDirection), .send (.var .lsOutput), .recv .lsInput, .pushInput] }) ∧
    (turnNow s = .env .fetch → step s = .next { tookTurn s with inBuf := if s.polled then none else s.inBuf })

/-! ### Progress -/

/-- R305, R371: the turns decided come in their order, and after them those of the next round; and the order is fair:
from every state of a block whose HOST program keeps to the window, each of SEQ, MAP and HOST has the turn after
finitely many steps. That an order of turns is a list and then rounds is the model's choice (log entries 2 and 22). -/
def Obligations.TurnsAreFair : Prop :=
  (∀ (s : State) (turn : Turn) (later : List Turn), s.sched = turn :: later →
    turnNow s = turn ∧ tookTurn s = { s with sched := later }) ∧
  (∀ s : State, s.sched = [] →
    turnNow s :: (tookTurn s).sched = (Config.schedule s.tick).turns ∧
    tookTurn s = { s with sched := (tookTurn s).sched, tick := s.tick + 1 }) ∧
  (∀ (s : State) (agent : Turn), BlockInv s → HostStaysInside s → agent ∈ [.seq, .map, .host] →
    ∃ (k : Nat) (u : State), Host.Core.run core k s = .next u ∧ turnNow u = agent)

/-- R266, R265, R371: "The loop never exits". From every state of the reference loop, under every fair order of turns
and whatever ENV does, HOST comes to the top of an iteration with its turn next, and begins that iteration. -/
def Obligations.LoopKeepsIterating : Prop :=
  ∀ s : State, LoopInv s → ∃ (k : Nat) (u v : State), Host.Core.run core k s = .next u ∧
    u.hostProg = [] ∧ turnNow u = .host ∧ step u = .next v ∧ v.hostProg = .tryPullOutput :: exchange ∧ LoopInv v
end

