-- ==== Sys2Proof/Laws/State.lean ====
section
/-! SUPPORT. What each named update of the state does to each field it does not write, and the plain facts about the
fields it does. No later proof unfolds one of these updates to read a field. -/

namespace Sys2Proof.Machine

/-! ### `raiseFault` -/

section

variable (f : FaultRecord) (s : State)

@[simp] theorem raiseFault_params : (raiseFault f s).params = s.params := rfl
@[simp] theorem raiseFault_seqEn : (raiseFault f s).seqEn = s.seqEn := rfl
@[simp] theorem raiseFault_seqPc : (raiseFault f s).seqPc = s.seqPc := rfl
@[simp] theorem raiseFault_osr : (raiseFault f s).osr = s.osr := rfl
@[simp] theorem raiseFault_isr : (raiseFault f s).isr = s.isr := rfl
@[simp] theorem raiseFault_txq : (raiseFault f s).txq = s.txq := rfl
@[simp] theorem raiseFault_rxq : (raiseFault f s).rxq = s.rxq := rfl
@[simp] theorem raiseFault_seqProg : (raiseFault f s).seqProg = s.seqProg := rfl
@[simp] theorem raiseFault_pindir : (raiseFault f s).pindir = s.pindir := rfl
@[simp] theorem raiseFault_pinout : (raiseFault f s).pinout = s.pinout := rfl
@[simp] theorem raiseFault_padPull : (raiseFault f s).padPull = s.padPull := rfl
@[simp] theorem raiseFault_level : (raiseFault f s).level = s.level := rfl
@[simp] theorem raiseFault_ext : (raiseFault f s).ext = s.ext := rfl
@[simp] theorem raiseFault_pullA : (raiseFault f s).pullA = s.pullA := rfl
@[simp] theorem raiseFault_pullB : (raiseFault f s).pullB = s.pullB := rfl
@[simp] theorem raiseFault_pullChg : (raiseFault f s).pullChg = s.pullChg := rfl
@[simp] theorem raiseFault_mapBusy : (raiseFault f s).mapBusy = s.mapBusy := rfl
@[simp] theorem raiseFault_refused : (raiseFault f s).refused = s.refused := rfl
@[simp] theorem raiseFault_reasons : (raiseFault f s).reasons = s.reasons := rfl
@[simp] theorem raiseFault_lsDirection : (raiseFault f s).lsDirection = s.lsDirection := rfl
@[simp] theorem raiseFault_lsOutput : (raiseFault f s).lsOutput = s.lsOutput := rfl
@[simp] theorem raiseFault_lsInput : (raiseFault f s).lsInput = s.lsInput := rfl
@[simp] theorem raiseFault_varT : (raiseFault f s).varT = s.varT := rfl
@[simp] theorem raiseFault_varX : (raiseFault f s).varX = s.varX := rfl
@[simp] theorem raiseFault_varC : (raiseFault f s).varC = s.varC := rfl
@[simp] theorem raiseFault_inBuf : (raiseFault f s).inBuf = s.inBuf := rfl
@[simp] theorem raiseFault_usbOut : (raiseFault f s).usbOut = s.usbOut := rfl
@[simp] theorem raiseFault_polled : (raiseFault f s).polled = s.polled := rfl
@[simp] theorem raiseFault_hostProg : (raiseFault f s).hostProg = s.hostProg := rfl
@[simp] theorem raiseFault_sched : (raiseFault f s).sched = s.sched := rfl
@[simp] theorem raiseFault_tick : (raiseFault f s).tick = s.tick := rfl
@[simp] theorem raiseFault_draws : (raiseFault f s).draws = s.draws := rfl
@[simp] theorem raiseFault_faults : (raiseFault f s).faults = s.faults.insert f := rfl

end

/-! ### `refuse` -/

section

variable (r : RefuseReason) (s : State)

@[simp] theorem refuse_params : (refuse r s).params = s.params := rfl
@[simp] theorem refuse_seqEn : (refuse r s).seqEn = s.seqEn := rfl
@[simp] theorem refuse_seqPc : (refuse r s).seqPc = s.seqPc := rfl
@[simp] theorem refuse_osr : (refuse r s).osr = s.osr := rfl
@[simp] theorem refuse_isr : (refuse r s).isr = s.isr := rfl
@[simp] theorem refuse_txq : (refuse r s).txq = s.txq := rfl
@[simp] theorem refuse_rxq : (refuse r s).rxq = s.rxq := rfl
@[simp] theorem refuse_seqProg : (refuse r s).seqProg = s.seqProg := rfl
@[simp] theorem refuse_pindir : (refuse r s).pindir = s.pindir := rfl
@[simp] theorem refuse_pinout : (refuse r s).pinout = s.pinout := rfl
@[simp] theorem refuse_padPull : (refuse r s).padPull = s.padPull := rfl
@[simp] theorem refuse_level : (refuse r s).level = s.level := rfl
@[simp] theorem refuse_ext : (refuse r s).ext = s.ext := rfl
@[simp] theorem refuse_pullA : (refuse r s).pullA = s.pullA := rfl
@[simp] theorem refuse_pullB : (refuse r s).pullB = s.pullB := rfl
@[simp] theorem refuse_pullChg : (refuse r s).pullChg = s.pullChg := rfl
@[simp] theorem refuse_mapBusy : (refuse r s).mapBusy = s.mapBusy := rfl
@[simp] theorem refuse_faults : (refuse r s).faults = s.faults := rfl
@[simp] theorem refuse_lsDirection : (refuse r s).lsDirection = s.lsDirection := rfl
@[simp] theorem refuse_lsOutput : (refuse r s).lsOutput = s.lsOutput := rfl
@[simp] theorem refuse_lsInput : (refuse r s).lsInput = s.lsInput := rfl
@[simp] theorem refuse_varT : (refuse r s).varT = s.varT := rfl
@[simp] theorem refuse_varX : (refuse r s).varX = s.varX := rfl
@[simp] theorem refuse_varC : (refuse r s).varC = s.varC := rfl
@[simp] theorem refuse_inBuf : (refuse r s).inBuf = s.inBuf := rfl
@[simp] theorem refuse_usbOut : (refuse r s).usbOut = s.usbOut := rfl
@[simp] theorem refuse_polled : (refuse r s).polled = s.polled := rfl
@[simp] theorem refuse_hostProg : (refuse r s).hostProg = s.hostProg := rfl
@[simp] theorem refuse_sched : (refuse r s).sched = s.sched := rfl
@[simp] theorem refuse_tick : (refuse r s).tick = s.tick := rfl
@[simp] theorem refuse_draws : (refuse r s).draws = s.draws := rfl
@[simp] theorem refuse_refused : (refuse r s).refused = true := rfl
@[simp] theorem refuse_reasons : (refuse r s).reasons = s.reasons.insert r := rfl

end

/-! ### `refreshAll` -/

section

variable (s : State)

@[simp] theorem refreshAll_params : (refreshAll s).params = s.params := by simp only [refreshAll]
@[simp] theorem refreshAll_seqEn : (refreshAll s).seqEn = s.seqEn := by simp only [refreshAll]
@[simp] theorem refreshAll_seqPc : (refreshAll s).seqPc = s.seqPc := by simp only [refreshAll]
@[simp] theorem refreshAll_osr : (refreshAll s).osr = s.osr := by simp only [refreshAll]
@[simp] theorem refreshAll_isr : (refreshAll s).isr = s.isr := by simp only [refreshAll]
@[simp] theorem refreshAll_txq : (refreshAll s).txq = s.txq := by simp only [refreshAll]
@[simp] theorem refreshAll_rxq : (refreshAll s).rxq = s.rxq := by simp only [refreshAll]
@[simp] theorem refreshAll_seqProg : (refreshAll s).seqProg = s.seqProg := by simp only [refreshAll]
@[simp] theorem refreshAll_pindir : (refreshAll s).pindir = s.pindir := by simp only [refreshAll]
@[simp] theorem refreshAll_pinout : (refreshAll s).pinout = s.pinout := by simp only [refreshAll]
@[simp] theorem refreshAll_padPull : (refreshAll s).padPull = s.padPull := by simp only [refreshAll]
@[simp] theorem refreshAll_ext : (refreshAll s).ext = s.ext := by simp only [refreshAll]
@[simp] theorem refreshAll_pullA : (refreshAll s).pullA = s.pullA := by simp only [refreshAll]
@[simp] theorem refreshAll_pullB : (refreshAll s).pullB = s.pullB := by simp only [refreshAll]
@[simp] theorem refreshAll_pullChg : (refreshAll s).pullChg = s.pullChg := by simp only [refreshAll]
@[simp] theorem refreshAll_mapBusy : (refreshAll s).mapBusy = s.mapBusy := by simp only [refreshAll]
@[simp] theorem refreshAll_faults : (refreshAll s).faults = s.faults := by simp only [refreshAll]
@[simp] theorem refreshAll_refused : (refreshAll s).refused = s.refused := by simp only [refreshAll]
@[simp] theorem refreshAll_reasons : (refreshAll s).reasons = s.reasons := by simp only [refreshAll]
@[simp] theorem refreshAll_lsDirection : (refreshAll s).lsDirection = s.lsDirection := by simp only [refreshAll]
@[simp] theorem refreshAll_lsOutput : (refreshAll s).lsOutput = s.lsOutput := by simp only [refreshAll]
@[simp] theorem refreshAll_lsInput : (refreshAll s).lsInput = s.lsInput := by simp only [refreshAll]
@[simp] theorem refreshAll_varT : (refreshAll s).varT = s.varT := by simp only [refreshAll]
@[simp] theorem refreshAll_varX : (refreshAll s).varX = s.varX := by simp only [refreshAll]
@[simp] theorem refreshAll_varC : (refreshAll s).varC = s.varC := by simp only [refreshAll]
@[simp] theorem refreshAll_inBuf : (refreshAll s).inBuf = s.inBuf := by simp only [refreshAll]
@[simp] theorem refreshAll_usbOut : (refreshAll s).usbOut = s.usbOut := by simp only [refreshAll]
@[simp] theorem refreshAll_polled : (refreshAll s).polled = s.polled := by simp only [refreshAll]
@[simp] theorem refreshAll_hostProg : (refreshAll s).hostProg = s.hostProg := by simp only [refreshAll]
@[simp] theorem refreshAll_sched : (refreshAll s).sched = s.sched := by simp only [refreshAll]
@[simp] theorem refreshAll_tick : (refreshAll s).tick = s.tick := by simp only [refreshAll]
@[simp] theorem refreshAll_draws : (refreshAll s).draws = s.draws + 1 := by simp only [refreshAll]

end

/-! ### `refreshPin` -/

section

variable (k : Pin) (s : State)

@[simp] theorem refreshPin_params : (refreshPin k s).params = s.params := by simp only [refreshPin]
@[simp] theorem refreshPin_seqEn : (refreshPin k s).seqEn = s.seqEn := by simp only [refreshPin]
@[simp] theorem refreshPin_seqPc : (refreshPin k s).seqPc = s.seqPc := by simp only [refreshPin]
@[simp] theorem refreshPin_osr : (refreshPin k s).osr = s.osr := by simp only [refreshPin]
@[simp] theorem refreshPin_isr : (refreshPin k s).isr = s.isr := by simp only [refreshPin]
@[simp] theorem refreshPin_txq : (refreshPin k s).txq = s.txq := by simp only [refreshPin]
@[simp] theorem refreshPin_rxq : (refreshPin k s).rxq = s.rxq := by simp only [refreshPin]
@[simp] theorem refreshPin_seqProg : (refreshPin k s).seqProg = s.seqProg := by simp only [refreshPin]
@[simp] theorem refreshPin_pindir : (refreshPin k s).pindir = s.pindir := by simp only [refreshPin]
@[simp] theorem refreshPin_pinout : (refreshPin k s).pinout = s.pinout := by simp only [refreshPin]
@[simp] theorem refreshPin_padPull : (refreshPin k s).padPull = s.padPull := by simp only [refreshPin]
@[simp] theorem refreshPin_ext : (refreshPin k s).ext = s.ext := by simp only [refreshPin]
@[simp] theorem refreshPin_pullA : (refreshPin k s).pullA = s.pullA := by simp only [refreshPin]
@[simp] theorem refreshPin_pullB : (refreshPin k s).pullB = s.pullB := by simp only [refreshPin]
@[simp] theorem refreshPin_pullChg : (refreshPin k s).pullChg = s.pullChg := by simp only [refreshPin]
@[simp] theorem refreshPin_mapBusy : (refreshPin k s).mapBusy = s.mapBusy := by simp only [refreshPin]
@[simp] theorem refreshPin_faults : (refreshPin k s).faults = s.faults := by simp only [refreshPin]
@[simp] theorem refreshPin_refused : (refreshPin k s).refused = s.refused := by simp only [refreshPin]
@[simp] theorem refreshPin_reasons : (refreshPin k s).reasons = s.reasons := by simp only [refreshPin]
@[simp] theorem refreshPin_lsDirection : (refreshPin k s).lsDirection = s.lsDirection := by simp only [refreshPin]
@[simp] theorem refreshPin_lsOutput : (refreshPin k s).lsOutput = s.lsOutput := by simp only [refreshPin]
@[simp] theorem refreshPin_lsInput : (refreshPin k s).lsInput = s.lsInput := by simp only [refreshPin]
@[simp] theorem refreshPin_varT : (refreshPin k s).varT = s.varT := by simp only [refreshPin]
@[simp] theorem refreshPin_varX : (refreshPin k s).varX = s.varX := by simp only [refreshPin]
@[simp] theorem refreshPin_varC : (refreshPin k s).varC = s.varC := by simp only [refreshPin]
@[simp] theorem refreshPin_inBuf : (refreshPin k s).inBuf = s.inBuf := by simp only [refreshPin]
@[simp] theorem refreshPin_usbOut : (refreshPin k s).usbOut = s.usbOut := by simp only [refreshPin]
@[simp] theorem refreshPin_polled : (refreshPin k s).polled = s.polled := by simp only [refreshPin]
@[simp] theorem refreshPin_hostProg : (refreshPin k s).hostProg = s.hostProg := by simp only [refreshPin]
@[simp] theorem refreshPin_sched : (refreshPin k s).sched = s.sched := by simp only [refreshPin]
@[simp] theorem refreshPin_tick : (refreshPin k s).tick = s.tick := by simp only [refreshPin]
@[simp] theorem refreshPin_draws : (refreshPin k s).draws = s.draws + 1 := by simp only [refreshPin]

end

/-! ### `tookTurn` -/

section

variable (s : State)

@[simp] theorem tookTurn_params : (tookTurn s).params = s.params := by unfold tookTurn; split <;> rfl
@[simp] theorem tookTurn_seqEn : (tookTurn s).seqEn = s.seqEn := by unfold tookTurn; split <;> rfl
@[simp] theorem tookTurn_seqPc : (tookTurn s).seqPc = s.seqPc := by unfold tookTurn; split <;> rfl
@[simp] theorem tookTurn_osr : (tookTurn s).osr = s.osr := by unfold tookTurn; split <;> rfl
@[simp] theorem tookTurn_isr : (tookTurn s).isr = s.isr := by unfold tookTurn; split <;> rfl
@[simp] theorem tookTurn_txq : (tookTurn s).txq = s.txq := by unfold tookTurn; split <;> rfl
@[simp] theorem tookTurn_rxq : (tookTurn s).rxq = s.rxq := by unfold tookTurn; split <;> rfl
@[simp] theorem tookTurn_seqProg : (tookTurn s).seqProg = s.seqProg := by unfold tookTurn; split <;> rfl
@[simp] theorem tookTurn_pindir : (tookTurn s).pindir = s.pindir := by unfold tookTurn; split <;> rfl
@[simp] theorem tookTurn_pinout : (tookTurn s).pinout = s.pinout := by unfold tookTurn; split <;> rfl
@[simp] theorem tookTurn_padPull : (tookTurn s).padPull = s.padPull := by unfold tookTurn; split <;> rfl
@[simp] theorem tookTurn_level : (tookTurn s).level = s.level := by unfold tookTurn; split <;> rfl
@[simp] theorem tookTurn_ext : (tookTurn s).ext = s.ext := by unfold tookTurn; split <;> rfl
@[simp] theorem tookTurn_pullA : (tookTurn s).pullA = s.pullA := by unfold tookTurn; split <;> rfl
@[simp] theorem tookTurn_pullB : (tookTurn s).pullB = s.pullB := by unfold tookTurn; split <;> rfl
@[simp] theorem tookTurn_pullChg : (tookTurn s).pullChg = s.pullChg := by unfold tookTurn; split <;> rfl
@[simp] theorem tookTurn_mapBusy : (tookTurn s).mapBusy = s.mapBusy := by unfold tookTurn; split <;> rfl
@[simp] theorem tookTurn_faults : (tookTurn s).faults = s.faults := by unfold tookTurn; split <;> rfl
@[simp] theorem tookTurn_refused : (tookTurn s).refused = s.refused := by unfold tookTurn; split <;> rfl
@[simp] theorem tookTurn_reasons : (tookTurn s).reasons = s.reasons := by unfold tookTurn; split <;> rfl
@[simp] theorem tookTurn_lsDirection : (tookTurn s).lsDirection = s.lsDirection := by unfold tookTurn; split <;> rfl
@[simp] theorem tookTurn_lsOutput : (tookTurn s).lsOutput = s.lsOutput := by unfold tookTurn; split <;> rfl
@[simp] theorem tookTurn_lsInput : (tookTurn s).lsInput = s.lsInput := by unfold tookTurn; split <;> rfl
@[simp] theorem tookTurn_varT : (tookTurn s).varT = s.varT := by unfold tookTurn; split <;> rfl
@[simp] theorem tookTurn_varX : (tookTurn s).varX = s.varX := by unfold tookTurn; split <;> rfl
@[simp] theorem tookTurn_varC : (tookTurn s).varC = s.varC := by unfold tookTurn; split <;> rfl
@[simp] theorem tookTurn_inBuf : (tookTurn s).inBuf = s.inBuf := by unfold tookTurn; split <;> rfl
@[simp] theorem tookTurn_usbOut : (tookTurn s).usbOut = s.usbOut := by unfold tookTurn; split <;> rfl
@[simp] theorem tookTurn_polled : (tookTurn s).polled = s.polled := by unfold tookTurn; split <;> rfl
@[simp] theorem tookTurn_hostProg : (tookTurn s).hostProg = s.hostProg := by unfold tookTurn; split <;> rfl
@[simp] theorem tookTurn_draws : (tookTurn s).draws = s.draws := by unfold tookTurn; split <;> rfl

end

/-! ### `setVar` -/

section

variable (x : HostVar) (v : Word) (s : State)

@[simp] theorem setVar_params : (setVar x v s).params = s.params := by cases x <;> rfl
@[simp] theorem setVar_seqEn : (setVar x v s).seqEn = s.seqEn := by cases x <;> rfl
@[simp] theorem setVar_seqPc : (setVar x v s).seqPc = s.seqPc := by cases x <;> rfl
@[simp] theorem setVar_osr : (setVar x v s).osr = s.osr := by cases x <;> rfl
@[simp] theorem setVar_isr : (setVar x v s).isr = s.isr := by cases x <;> rfl
@[simp] theorem setVar_txq : (setVar x v s).txq = s.txq := by cases x <;> rfl
@[simp] theorem setVar_rxq : (setVar x v s).rxq = s.rxq := by cases x <;> rfl
@[simp] theorem setVar_seqProg : (setVar x v s).seqProg = s.seqProg := by cases x <;> rfl
@[simp] theorem setVar_pindir : (setVar x v s).pindir = s.pindir := by cases x <;> rfl
@[simp] theorem setVar_pinout : (setVar x v s).pinout = s.pinout := by cases x <;> rfl
@[simp] theorem setVar_padPull : (setVar x v s).padPull = s.padPull := by cases x <;> rfl
@[simp] theorem setVar_level : (setVar x v s).level = s.level := by cases x <;> rfl
@[simp] theorem setVar_ext : (setVar x v s).ext = s.ext := by cases x <;> rfl
@[simp] theorem setVar_pullA : (setVar x v s).pullA = s.pullA := by cases x <;> rfl
@[simp] theorem setVar_pullB : (setVar x v s).pullB = s.pullB := by cases x <;> rfl
@[simp] theorem setVar_pullChg : (setVar x v s).pullChg = s.pullChg := by cases x <;> rfl
@[simp] theorem setVar_mapBusy : (setVar x v s).mapBusy = s.mapBusy := by cases x <;> rfl
@[simp] theorem setVar_faults : (setVar x v s).faults = s.faults := by cases x <;> rfl
@[simp] theorem setVar_refused : (setVar x v s).refused = s.refused := by cases x <;> rfl
@[simp] theorem setVar_reasons : (setVar x v s).reasons = s.reasons := by cases x <;> rfl
@[simp] theorem setVar_inBuf : (setVar x v s).inBuf = s.inBuf := by cases x <;> rfl
@[simp] theorem setVar_usbOut : (setVar x v s).usbOut = s.usbOut := by cases x <;> rfl
@[simp] theorem setVar_polled : (setVar x v s).polled = s.polled := by cases x <;> rfl
@[simp] theorem setVar_hostProg : (setVar x v s).hostProg = s.hostProg := by cases x <;> rfl
@[simp] theorem setVar_sched : (setVar x v s).sched = s.sched := by cases x <;> rfl
@[simp] theorem setVar_tick : (setVar x v s).tick = s.tick := by cases x <;> rfl
@[simp] theorem setVar_draws : (setVar x v s).draws = s.draws := by cases x <;> rfl
@[simp] theorem setVar_lsInput_self : (setVar .lsInput v s).lsInput = v := rfl
@[simp] theorem setVar_lsInput_lsDirection : (setVar .lsInput v s).lsDirection = s.lsDirection := rfl
@[simp] theorem setVar_lsInput_lsOutput : (setVar .lsInput v s).lsOutput = s.lsOutput := rfl
@[simp] theorem setVar_varT_self : (setVar .varT v s).varT = v := rfl

end

/-! ### `startMap` -/

section

variable (g : Group) (w : Word) (chg : Bool) (s : State)

@[simp] theorem startMap_params : (startMap g w chg s).params = s.params := by cases chg <;> rfl
@[simp] theorem startMap_seqEn : (startMap g w chg s).seqEn = s.seqEn := by cases chg <;> rfl
@[simp] theorem startMap_seqPc : (startMap g w chg s).seqPc = s.seqPc := by cases chg <;> rfl
@[simp] theorem startMap_osr : (startMap g w chg s).osr = s.osr := by cases chg <;> rfl
@[simp] theorem startMap_isr : (startMap g w chg s).isr = s.isr := by cases chg <;> rfl
@[simp] theorem startMap_txq : (startMap g w chg s).txq = s.txq := by cases chg <;> rfl
@[simp] theorem startMap_rxq : (startMap g w chg s).rxq = s.rxq := by cases chg <;> rfl
@[simp] theorem startMap_seqProg : (startMap g w chg s).seqProg = s.seqProg := by cases chg <;> rfl
@[simp] theorem startMap_pindir : (startMap g w chg s).pindir = s.pindir := by cases chg <;> rfl
@[simp] theorem startMap_pinout : (startMap g w chg s).pinout = s.pinout := by cases chg <;> rfl
@[simp] theorem startMap_padPull : (startMap g w chg s).padPull = s.padPull := by cases chg <;> rfl
@[simp] theorem startMap_level : (startMap g w chg s).level = s.level := by cases chg <;> rfl
@[simp] theorem startMap_ext : (startMap g w chg s).ext = s.ext := by cases chg <;> rfl
@[simp] theorem startMap_pullA : (startMap g w chg s).pullA = s.pullA := by cases chg <;> rfl
@[simp] theorem startMap_pullB : (startMap g w chg s).pullB = s.pullB := by cases chg <;> rfl
@[simp] theorem startMap_pullChg : (startMap g w chg s).pullChg = s.pullChg := by cases chg <;> rfl
@[simp] theorem startMap_faults : (startMap g w chg s).faults = s.faults := by cases chg <;> rfl
@[simp] theorem startMap_refused : (startMap g w chg s).refused = s.refused := by cases chg <;> rfl
@[simp] theorem startMap_reasons : (startMap g w chg s).reasons = s.reasons := by cases chg <;> rfl
@[simp] theorem startMap_lsDirection : (startMap g w chg s).lsDirection = s.lsDirection := by cases chg <;> rfl
@[simp] theorem startMap_lsOutput : (startMap g w chg s).lsOutput = s.lsOutput := by cases chg <;> rfl
@[simp] theorem startMap_lsInput : (startMap g w chg s).lsInput = s.lsInput := by cases chg <;> rfl
@[simp] theorem startMap_varT : (startMap g w chg s).varT = s.varT := by cases chg <;> rfl
@[simp] theorem startMap_varX : (startMap g w chg s).varX = s.varX := by cases chg <;> rfl
@[simp] theorem startMap_varC : (startMap g w chg s).varC = s.varC := by cases chg <;> rfl
@[simp] theorem startMap_inBuf : (startMap g w chg s).inBuf = s.inBuf := by cases chg <;> rfl
@[simp] theorem startMap_usbOut : (startMap g w chg s).usbOut = s.usbOut := by cases chg <;> rfl
@[simp] theorem startMap_polled : (startMap g w chg s).polled = s.polled := by cases chg <;> rfl
@[simp] theorem startMap_hostProg : (startMap g w chg s).hostProg = s.hostProg := by cases chg <;> rfl
@[simp] theorem startMap_sched : (startMap g w chg s).sched = s.sched := by cases chg <;> rfl
@[simp] theorem startMap_tick : (startMap g w chg s).tick = s.tick := by cases chg <;> rfl
@[simp] theorem startMap_draws : (startMap g w chg s).draws = s.draws := by cases chg <;> rfl
@[simp] theorem startMap_mapBusy :
    (startMap g w chg s).mapBusy = if chg then some { group := g, word := w, index := 0 } else s.mapBusy := by
  cases chg <;> rfl

end

/-! ### `applyIndex` -/

section

variable (job : MapJob) (s : State)

@[simp] theorem applyIndex_params : (applyIndex job s).params = s.params := by unfold applyIndex; split <;> rfl
@[simp] theorem applyIndex_seqEn : (applyIndex job s).seqEn = s.seqEn := by unfold applyIndex; split <;> rfl
@[simp] theorem applyIndex_seqPc : (applyIndex job s).seqPc = s.seqPc := by unfold applyIndex; split <;> rfl
@[simp] theorem applyIndex_osr : (applyIndex job s).osr = s.osr := by unfold applyIndex; split <;> rfl
@[simp] theorem applyIndex_isr : (applyIndex job s).isr = s.isr := by unfold applyIndex; split <;> rfl
@[simp] theorem applyIndex_txq : (applyIndex job s).txq = s.txq := by unfold applyIndex; split <;> rfl
@[simp] theorem applyIndex_rxq : (applyIndex job s).rxq = s.rxq := by unfold applyIndex; split <;> rfl
@[simp] theorem applyIndex_seqProg : (applyIndex job s).seqProg = s.seqProg := by unfold applyIndex; split <;> rfl
@[simp] theorem applyIndex_pindir : (applyIndex job s).pindir = s.pindir := by unfold applyIndex; split <;> rfl
@[simp] theorem applyIndex_pinout : (applyIndex job s).pinout = s.pinout := by unfold applyIndex; split <;> rfl
@[simp] theorem applyIndex_ext : (applyIndex job s).ext = s.ext := by unfold applyIndex; split <;> rfl
@[simp] theorem applyIndex_pullA : (applyIndex job s).pullA = s.pullA := by unfold applyIndex; split <;> rfl
@[simp] theorem applyIndex_pullB : (applyIndex job s).pullB = s.pullB := by unfold applyIndex; split <;> rfl
@[simp] theorem applyIndex_pullChg : (applyIndex job s).pullChg = s.pullChg := by unfold applyIndex; split <;> rfl
@[simp] theorem applyIndex_mapBusy : (applyIndex job s).mapBusy = s.mapBusy := by unfold applyIndex; split <;> rfl
@[simp] theorem applyIndex_faults : (applyIndex job s).faults = s.faults := by unfold applyIndex; split <;> rfl
@[simp] theorem applyIndex_refused : (applyIndex job s).refused = s.refused := by unfold applyIndex; split <;> rfl
@[simp] theorem applyIndex_reasons : (applyIndex job s).reasons = s.reasons := by unfold applyIndex; split <;> rfl
@[simp] theorem applyIndex_lsDirection : (applyIndex job s).lsDirection = s.lsDirection := by unfold applyIndex; split <;> rfl
@[simp] theorem applyIndex_lsOutput : (applyIndex job s).lsOutput = s.lsOutput := by unfold applyIndex; split <;> rfl
@[simp] theorem applyIndex_lsInput : (applyIndex job s).lsInput = s.lsInput := by unfold applyIndex; split <;> rfl
@[simp] theorem applyIndex_varT : (applyIndex job s).varT = s.varT := by unfold applyIndex; split <;> rfl
@[simp] theorem applyIndex_varX : (applyIndex job s).varX = s.varX := by unfold applyIndex; split <;> rfl
@[simp] theorem applyIndex_varC : (applyIndex job s).varC = s.varC := by unfold applyIndex; split <;> rfl
@[simp] theorem applyIndex_inBuf : (applyIndex job s).inBuf = s.inBuf := by unfold applyIndex; split <;> rfl
@[simp] theorem applyIndex_usbOut : (applyIndex job s).usbOut = s.usbOut := by unfold applyIndex; split <;> rfl
@[simp] theorem applyIndex_polled : (applyIndex job s).polled = s.polled := by unfold applyIndex; split <;> rfl
@[simp] theorem applyIndex_hostProg : (applyIndex job s).hostProg = s.hostProg := by unfold applyIndex; split <;> rfl
@[simp] theorem applyIndex_sched : (applyIndex job s).sched = s.sched := by unfold applyIndex; split <;> rfl
@[simp] theorem applyIndex_tick : (applyIndex job s).tick = s.tick := by unfold applyIndex; split <;> rfl

end

/-! ### `mapStep` -/

section

variable (s : State)

@[simp] theorem mapStep_params : (mapStep s).params = s.params := by unfold mapStep; split <;> simp
@[simp] theorem mapStep_seqEn : (mapStep s).seqEn = s.seqEn := by unfold mapStep; split <;> simp
@[simp] theorem mapStep_seqPc : (mapStep s).seqPc = s.seqPc := by unfold mapStep; split <;> simp
@[simp] theorem mapStep_osr : (mapStep s).osr = s.osr := by unfold mapStep; split <;> simp
@[simp] theorem mapStep_isr : (mapStep s).isr = s.isr := by unfold mapStep; split <;> simp
@[simp] theorem mapStep_txq : (mapStep s).txq = s.txq := by unfold mapStep; split <;> simp
@[simp] theorem mapStep_rxq : (mapStep s).rxq = s.rxq := by unfold mapStep; split <;> simp
@[simp] theorem mapStep_seqProg : (mapStep s).seqProg = s.seqProg := by unfold mapStep; split <;> simp
@[simp] theorem mapStep_pindir : (mapStep s).pindir = s.pindir := by unfold mapStep; split <;> simp
@[simp] theorem mapStep_pinout : (mapStep s).pinout = s.pinout := by unfold mapStep; split <;> simp
@[simp] theorem mapStep_ext : (mapStep s).ext = s.ext := by unfold mapStep; split <;> simp
@[simp] theorem mapStep_pullA : (mapStep s).pullA = s.pullA := by unfold mapStep; split <;> simp
@[simp] theorem mapStep_pullB : (mapStep s).pullB = s.pullB := by unfold mapStep; split <;> simp
@[simp] theorem mapStep_pullChg : (mapStep s).pullChg = s.pullChg := by unfold mapStep; split <;> simp
@[simp] theorem mapStep_faults : (mapStep s).faults = s.faults := by unfold mapStep; split <;> simp
@[simp] theorem mapStep_refused : (mapStep s).refused = s.refused := by unfold mapStep; split <;> simp
@[simp] theorem mapStep_reasons : (mapStep s).reasons = s.reasons := by unfold mapStep; split <;> simp
@[simp] theorem mapStep_lsDirection : (mapStep s).lsDirection = s.lsDirection := by unfold mapStep; split <;> simp
@[simp] theorem mapStep_lsOutput : (mapStep s).lsOutput = s.lsOutput := by unfold mapStep; split <;> simp
@[simp] theorem mapStep_lsInput : (mapStep s).lsInput = s.lsInput := by unfold mapStep; split <;> simp
@[simp] theorem mapStep_varT : (mapStep s).varT = s.varT := by unfold mapStep; split <;> simp
@[simp] theorem mapStep_varX : (mapStep s).varX = s.varX := by unfold mapStep; split <;> simp
@[simp] theorem mapStep_varC : (mapStep s).varC = s.varC := by unfold mapStep; split <;> simp
@[simp] theorem mapStep_inBuf : (mapStep s).inBuf = s.inBuf := by unfold mapStep; split <;> simp
@[simp] theorem mapStep_usbOut : (mapStep s).usbOut = s.usbOut := by unfold mapStep; split <;> simp
@[simp] theorem mapStep_polled : (mapStep s).polled = s.polled := by unfold mapStep; split <;> simp
@[simp] theorem mapStep_hostProg : (mapStep s).hostProg = s.hostProg := by unfold mapStep; split <;> simp
@[simp] theorem mapStep_sched : (mapStep s).sched = s.sched := by unfold mapStep; split <;> simp
@[simp] theorem mapStep_tick : (mapStep s).tick = s.tick := by unfold mapStep; split <;> simp

end

/-! ### `envDrive` -/

section

variable (change : PinMap (Option Drive)) (s : State)

@[simp] theorem envDrive_params : (envDrive change s).params = s.params := by simp only [envDrive]
@[simp] theorem envDrive_seqEn : (envDrive change s).seqEn = s.seqEn := by simp only [envDrive]
@[simp] theorem envDrive_seqPc : (envDrive change s).seqPc = s.seqPc := by simp only [envDrive]
@[simp] theorem envDrive_osr : (envDrive change s).osr = s.osr := by simp only [envDrive]
@[simp] theorem envDrive_isr : (envDrive change s).isr = s.isr := by simp only [envDrive]
@[simp] theorem envDrive_txq : (envDrive change s).txq = s.txq := by simp only [envDrive]
@[simp] theorem envDrive_rxq : (envDrive change s).rxq = s.rxq := by simp only [envDrive]
@[simp] theorem envDrive_seqProg : (envDrive change s).seqProg = s.seqProg := by simp only [envDrive]
@[simp] theorem envDrive_pindir : (envDrive change s).pindir = s.pindir := by simp only [envDrive]
@[simp] theorem envDrive_pinout : (envDrive change s).pinout = s.pinout := by simp only [envDrive]
@[simp] theorem envDrive_padPull : (envDrive change s).padPull = s.padPull := by simp only [envDrive]
@[simp] theorem envDrive_pullA : (envDrive change s).pullA = s.pullA := by simp only [envDrive]
@[simp] theorem envDrive_pullB : (envDrive change s).pullB = s.pullB := by simp only [envDrive]
@[simp] theorem envDrive_pullChg : (envDrive change s).pullChg = s.pullChg := by simp only [envDrive]
@[simp] theorem envDrive_mapBusy : (envDrive change s).mapBusy = s.mapBusy := by simp only [envDrive]
@[simp] theorem envDrive_faults : (envDrive change s).faults = s.faults := by simp only [envDrive]
@[simp] theorem envDrive_refused : (envDrive change s).refused = s.refused := by simp only [envDrive]
@[simp] theorem envDrive_reasons : (envDrive change s).reasons = s.reasons := by simp only [envDrive]
@[simp] theorem envDrive_lsDirection : (envDrive change s).lsDirection = s.lsDirection := by simp only [envDrive]
@[simp] theorem envDrive_lsOutput : (envDrive change s).lsOutput = s.lsOutput := by simp only [envDrive]
@[simp] theorem envDrive_lsInput : (envDrive change s).lsInput = s.lsInput := by simp only [envDrive]
@[simp] theorem envDrive_varT : (envDrive change s).varT = s.varT := by simp only [envDrive]
@[simp] theorem envDrive_varX : (envDrive change s).varX = s.varX := by simp only [envDrive]
@[simp] theorem envDrive_varC : (envDrive change s).varC = s.varC := by simp only [envDrive]
@[simp] theorem envDrive_inBuf : (envDrive change s).inBuf = s.inBuf := by simp only [envDrive]
@[simp] theorem envDrive_usbOut : (envDrive change s).usbOut = s.usbOut := by simp only [envDrive]
@[simp] theorem envDrive_polled : (envDrive change s).polled = s.polled := by simp only [envDrive]
@[simp] theorem envDrive_hostProg : (envDrive change s).hostProg = s.hostProg := by simp only [envDrive]
@[simp] theorem envDrive_sched : (envDrive change s).sched = s.sched := by simp only [envDrive]
@[simp] theorem envDrive_tick : (envDrive change s).tick = s.tick := by simp only [envDrive]
@[simp] theorem envDrive_ext : (envDrive change s).ext = drivenExt change s := by simp only [envDrive]
@[simp] theorem envDrive_draws : (envDrive change s).draws = s.draws + 1 := by simp only [envDrive]

end

/-! ### `envStep` -/

section

variable (e : EnvEvent) (s : State)

@[simp] theorem envStep_params : (envStep e s).params = s.params := by cases e <;> simp [envStep, envDeliver, envFetch]
@[simp] theorem envStep_seqEn : (envStep e s).seqEn = s.seqEn := by cases e <;> simp [envStep, envDeliver, envFetch]
@[simp] theorem envStep_seqPc : (envStep e s).seqPc = s.seqPc := by cases e <;> simp [envStep, envDeliver, envFetch]
@[simp] theorem envStep_osr : (envStep e s).osr = s.osr := by cases e <;> simp [envStep, envDeliver, envFetch]
@[simp] theorem envStep_isr : (envStep e s).isr = s.isr := by cases e <;> simp [envStep, envDeliver, envFetch]
@[simp] theorem envStep_txq : (envStep e s).txq = s.txq := by cases e <;> simp [envStep, envDeliver, envFetch]
@[simp] theorem envStep_rxq : (envStep e s).rxq = s.rxq := by cases e <;> simp [envStep, envDeliver, envFetch]
@[simp] theorem envStep_seqProg : (envStep e s).seqProg = s.seqProg := by cases e <;> simp [envStep, envDeliver, envFetch]
@[simp] theorem envStep_pindir : (envStep e s).pindir = s.pindir := by cases e <;> simp [envStep, envDeliver, envFetch]
@[simp] theorem envStep_pinout : (envStep e s).pinout = s.pinout := by cases e <;> simp [envStep, envDeliver, envFetch]
@[simp] theorem envStep_padPull : (envStep e s).padPull = s.padPull := by cases e <;> simp [envStep, envDeliver, envFetch]
@[simp] theorem envStep_pullA : (envStep e s).pullA = s.pullA := by cases e <;> simp [envStep, envDeliver, envFetch]
@[simp] theorem envStep_pullB : (envStep e s).pullB = s.pullB := by cases e <;> simp [envStep, envDeliver, envFetch]
@[simp] theorem envStep_pullChg : (envStep e s).pullChg = s.pullChg := by cases e <;> simp [envStep, envDeliver, envFetch]
@[simp] theorem envStep_mapBusy : (envStep e s).mapBusy = s.mapBusy := by cases e <;> simp [envStep, envDeliver, envFetch]
@[simp] theorem envStep_faults : (envStep e s).faults = s.faults := by cases e <;> simp [envStep, envDeliver, envFetch]
@[simp] theorem envStep_refused : (envStep e s).refused = s.refused := by cases e <;> simp [envStep, envDeliver, envFetch]
@[simp] theorem envStep_reasons : (envStep e s).reasons = s.reasons := by cases e <;> simp [envStep, envDeliver, envFetch]
@[simp] theorem envStep_lsDirection : (envStep e s).lsDirection = s.lsDirection := by cases e <;> simp [envStep, envDeliver, envFetch]
@[simp] theorem envStep_lsOutput : (envStep e s).lsOutput = s.lsOutput := by cases e <;> simp [envStep, envDeliver, envFetch]
@[simp] theorem envStep_lsInput : (envStep e s).lsInput = s.lsInput := by cases e <;> simp [envStep, envDeliver, envFetch]
@[simp] theorem envStep_varT : (envStep e s).varT = s.varT := by cases e <;> simp [envStep, envDeliver, envFetch]
@[simp] theorem envStep_varX : (envStep e s).varX = s.varX := by cases e <;> simp [envStep, envDeliver, envFetch]
@[simp] theorem envStep_varC : (envStep e s).varC = s.varC := by cases e <;> simp [envStep, envDeliver, envFetch]
@[simp] theorem envStep_polled : (envStep e s).polled = s.polled := by cases e <;> simp [envStep, envDeliver, envFetch]
@[simp] theorem envStep_hostProg : (envStep e s).hostProg = s.hostProg := by cases e <;> simp [envStep, envDeliver, envFetch]
@[simp] theorem envStep_sched : (envStep e s).sched = s.sched := by cases e <;> simp [envStep, envDeliver, envFetch]
@[simp] theorem envStep_tick : (envStep e s).tick = s.tick := by cases e <;> simp [envStep, envDeliver, envFetch]

end

end Sys2Proof.Machine
end

