-- ==== Sys2Proof/Laws/Ops.lean ====
section
/-! SUPPORT. What the shared operations do, said once: pin numberings, pull codes, samples, STATUS, flags, the hold of
the window, and the resolution of levels. -/

namespace Sys2Proof.Machine

/-! ### Pins -/

theorem physPin_lt (k : Pin) : physPin k < 32 := by
  simp only [physPin]; split <;> omega

@[simp] theorem pinAt_physPin (k : Pin) : pinAt (physPin k) = some k := by
  revert k; decide

theorem physPin_injective {j k : Pin} (h : physPin j = physPin k) : j = k := by
  simpa using congrArg pinAt h

/-- A mapped index of a group is determined by its pin (R211). -/
theorem groupPin_injective : ∀ (g g' : Group) (i i' : Fin 16), (groupPin g i).isSome = true →
    groupPin g i = groupPin g' i' → g = g' ∧ i = i' := by
  intro g g'; cases g <;> cases g' <;> decide

/-- The masked bits of the direction and output words are those of the PinSet (R11). -/
theorem seqMask_physPin (k : Pin) : seqMask.getLsbD (physPin k) = true := by
  revert k; decide

/-! ### Samples -/

@[simp] theorem sampleWord_physPin (level : PinMap Bool) (fresh : Word) (k : Pin) :
    (sampleWord level fresh).getLsbD (physPin k) = level[k] := by
  simp [sampleWord, physPin_lt]

theorem sampleWord_outside (level : PinMap Bool) (fresh : Word) {p : Nat} (h : pinAt p = none) (hp : p < 32) :
    (sampleWord level fresh).getLsbD p = fresh.getLsbD p := by
  simp [sampleWord, h, hp]

/-! ### STATUS and the change flags -/

section

variable (rx tx : BitVec 8) (busy rxE rxF txE txF : Bool)

theorem statusFields_txFull : (statusFields rx tx busy rxE rxF txE txF).getLsbD 0 = txF := by
  simp only [statusFields, BitVec.getLsbD_append]; simp

theorem statusFields_txEmpty : (statusFields rx tx busy rxE rxF txE txF).getLsbD 1 = txE := by
  simp only [statusFields, BitVec.getLsbD_append]; simp

theorem statusFields_rxFull : (statusFields rx tx busy rxE rxF txE txF).getLsbD 2 = rxF := by
  simp only [statusFields, BitVec.getLsbD_append]; simp

theorem statusFields_rxEmpty : (statusFields rx tx busy rxE rxF txE txF).getLsbD 3 = rxE := by
  simp only [statusFields, BitVec.getLsbD_append]; simp

theorem statusFields_busy : (statusFields rx tx busy rxE rxF txE txF).getLsbD 4 = busy := by
  simp only [statusFields, BitVec.getLsbD_append]; simp

end

theorem setFlag_eq : ∀ f : BitVec 2,
    setFlag .a true f = f ||| 0b01#2 ∧ setFlag .a false f = f &&& 0b10#2 ∧
    setFlag .b true f = f ||| 0b10#2 ∧ setFlag .b false f = f &&& 0b01#2 := by
  decide

theorem setFlag_same : ∀ (g : Group) (b : Bool) (f : BitVec 2), (setFlag g b f).getLsbD (flagBit g) = b := by
  intro g; cases g <;> decide

theorem setFlag_other : ∀ (g h : Group) (b : Bool) (f : BitVec 2), h ≠ g →
    (setFlag g b f).getLsbD (flagBit h) = f.getLsbD (flagBit h) := by
  intro g h; cases g <;> cases h <;> decide

@[simp] theorem changed_eq_true {old new : Word} : changed old new = true ↔ new ≠ old := by
  simp [changed]

@[simp] theorem changed_eq_false {old new : Word} : changed old new = false ↔ new = old := by
  simp [changed]

/-! ### The hold of the window -/

theorem mapActive_eq_true {s : State} : mapActive s = true ↔ s.mapBusy ≠ none := by
  simp [mapActive, Option.isSome_iff_ne_none]

theorem mapActive_eq_false {s : State} : mapActive s = false ↔ s.mapBusy = none := by
  simp [mapActive]

theorem whenMapIdle_idle {s : State} (h : s.mapBusy = none) (act : State → Result) : whenMapIdle s act = act s := by
  simp [whenMapIdle, mapActive, h]

theorem whenMapIdle_busy {s : State} (h : s.mapBusy ≠ none) (act : State → Result) : whenMapIdle s act = .next s := by
  simp [whenMapIdle, mapActive_eq_true.2 h]

/-! ### Levels -/

theorem refreshAll_level (s : State) (k : Pin) : (refreshAll s).level[k] = resolvePin s (drawNow s) k := by
  simp [refreshAll]

theorem refreshPin_level_same (s : State) (k : Pin) :
    (refreshPin k s).level[k] = resolvePin s (drawNow s) k := by
  simp [refreshPin]

theorem refreshPin_level_other (s : State) {j k : Pin} (h : j ≠ k) : (refreshPin k s).level[j] = s.level[j] := by
  have : k.val ≠ j.val := fun e => h (Fin.ext e.symm)
  simp [refreshPin, this]

/-- An undriven output pin has the level of its output latch, whatever was drawn (R151). -/
theorem resolvePin_output (s : State) (fresh : Word) (k : Pin) (hd : s.pindir.getLsbD (physPin k) = true)
    (he : s.ext[k] = .z) : resolvePin s fresh k = s.pinout.getLsbD (physPin k) := by
  simp only [resolvePin, he, hd, resolve, if_true]

/-! ### One index of a reconfiguration -/

theorem applyIndex_unmapped {job : MapJob} {s : State} (h : groupPin job.group job.index = none) :
    applyIndex job s = s := by
  simp only [applyIndex, h]

theorem applyIndex_padPull {job : MapJob} {s : State} {k : Pin} (h : groupPin job.group job.index = some k) :
    (applyIndex job s).padPull = s.padPull.set k (decodePull (pullCode job.word job.index)) := by
  simp only [applyIndex, h, refreshPin]

theorem applyIndex_level_other {job : MapJob} {s : State} {k j : Pin}
    (h : groupPin job.group job.index = some k) (hj : j ≠ k) : (applyIndex job s).level[j] = s.level[j] := by
  simp only [applyIndex, h]
  rw [refreshPin_level_other _ hj]

theorem mapStep_busy {s : State} {job : MapJob} (h : s.mapBusy = some job) :
    mapStep s = { applyIndex job s with mapBusy := nextJob job } := by
  simp only [mapStep, h]

@[simp] theorem mapStep_idle {s : State} (h : s.mapBusy = none) : mapStep s = s := by
  simp only [mapStep, h]

end Sys2Proof.Machine
end

