-- ==== Sys2Proof/Laws/Exec.lean ====
section
/-! SUPPORT. What the meanings do, said once: no meaning stops, a window access holds while MAP runs, and each
micro-operation is one record update. -/

namespace Sys2Proof.Machine

/-- No meaning faults or is refused: every instruction has a next state (R307: a fault or a refusal of the spec is a
record, not a stop). -/
theorem exec_next (i : Instr) (s : State) : ∃ t, exec i s = .next t := by
  cases i <;>
    simp only [exec, execPull, execOutPindirs, execOutPins, execInPins, execPush, execCtrlRd, execCtrlWr,
      execStatusRd, execTxfWr, execRxfRd, execPullAWr, execPullBWr, execPullARd, execPullBRd, execPullChgRd,
      whenMapIdle] <;>
    (repeat' split) <;> exact ⟨_, rfl⟩

/-- The instructions of the access-code space. -/
def isAccess (i : Instr) : Bool :=
  match i with
  | .pull | .outPindirs | .outPins | .inPins | .push => false
  | .ctrlRd _ | .ctrlWr _ | .statusRd _ | .txfWr _ | .rxfRd _ => true
  | .pullAWr _ | .pullBWr _ | .pullARd _ | .pullBRd _ | .pullChgRd _ => true

theorem isAccess_of_decodeBus {write : Bool} {off width : Nat} {x : HostVar} {v : Word} {i : Instr}
    (h : decodeBus write off width x v = .ok i) : isAccess i = true := by
  unfold decodeBus at h
  split at h
  · cases h
  split at h
  · cases h
  split at h
  · cases h
  · rename_i r _
    cases r <;> cases write <;> simp [readOf, writeOf] at h <;> subst h <;> rfl

theorem isAccess_of_decodeMicro {w : BitVec 16} {i : Instr} (h : decodeMicro w = .ok i) : isAccess i = false := by
  unfold decodeMicro at h
  repeat' split at h
  all_goals first | cases h; rfl | cases h

/-- A window access holds while a reconfiguration runs (R188 (5), R220). -/
theorem exec_access_busy {i : Instr} {s : State} (hi : isAccess i = true) (h : s.mapBusy ≠ none) :
    exec i s = .next s := by
  cases i <;> first
    | (simp [isAccess] at hi; done)
    | simp only [exec, execCtrlRd, execCtrlWr, execStatusRd, execTxfWr, execRxfRd, execPullAWr, execPullBWr,
        execPullARd, execPullBRd, execPullChgRd, whenMapIdle_busy h]

theorem execPull_cons {s : State} {word : Word} {rest : List Word} (h : s.txq = word :: rest) :
    execPull s = .next { s with osr := word, txq := rest, seqPc := s.seqPc + 1 } := by
  simp only [execPull, h]

theorem execPull_nil {s : State} (h : s.txq = []) : execPull s = .next s := by
  simp only [execPull, h]

theorem execPush_room {s : State} (h : rxFull s = false) :
    execPush s = .next { s with rxq := s.rxq ++ [s.isr], isr := 0, seqPc := 0 } := by
  simp [execPush, h]

theorem execPush_full {s : State} (h : rxFull s = true) : execPush s = .next s := by
  simp [execPush, h]

/-- One pass over what a micro-operation can do: it holds, takes the head of TXQ, applies a word, samples, or appends
to RXQ. -/
theorem exec_micro_cases {i : Instr} {s t : State} (hi : isAccess i = false) (h : exec i s = .next t) :
    t = s ∨
    (i = .pull ∧ ∃ word rest, s.txq = word :: rest ∧
      t = { s with osr := word, txq := rest, seqPc := s.seqPc + 1 }) ∨
    (i = .outPindirs ∧ t = { refreshAll { s with pindir := s.osr, osr := 0 } with seqPc := 2 }) ∨
    (i = .outPins ∧ t = { refreshAll { s with pinout := s.osr, osr := 0 } with seqPc := 4 }) ∨
    (i = .inPins ∧ t = { refreshAll s with isr := sampleWord (refreshAll s).level (drawNow s), seqPc := 5 }) ∨
    (i = .push ∧ rxFull s = false ∧ t = { s with rxq := s.rxq ++ [s.isr], isr := 0, seqPc := 0 }) := by
  cases i <;> simp only [isAccess, Bool.true_eq_false] at hi
  · simp only [exec, execPull] at h
    split at h <;> cases h
    · exact .inl rfl
    · exact .inr (.inl ⟨rfl, _, _, ‹_›, rfl⟩)
  · simp only [exec, execOutPindirs] at h
    cases h; exact .inr (.inr (.inl ⟨rfl, rfl⟩))
  · simp only [exec, execOutPins] at h
    cases h; exact .inr (.inr (.inr (.inl ⟨rfl, rfl⟩)))
  · simp only [exec, execInPins] at h
    cases h; exact .inr (.inr (.inr (.inr (.inl ⟨rfl, rfl⟩))))
  · simp only [exec, execPush] at h
    split at h <;> cases h
    · exact .inl rfl
    · exact .inr (.inr (.inr (.inr (.inr ⟨rfl, Bool.eq_false_iff.2 ‹_›, rfl⟩))))

/-- What a window access can do: it holds; it records a fault or a refusal; it starts the sequencer, appends to TXQ,
removes from RXQ, writes a pull word, or writes a HOST variable alone. -/
theorem exec_access_cases {i : Instr} {s t : State} (hi : isAccess i = true) (h : exec i s = .next t) :
    t = s ∨
    (s.mapBusy = none ∧
      ((∃ f, t = raiseFault f s) ∨
        (∃ r, (r = .ctrlReservedBits ∨ r = .seqStop) ∧ t = refuse r s) ∨
        (∃ b, (s.seqEn = true → b = true) ∧ t = { s with seqEn := b }) ∨
        (∃ v, i = .txfWr v ∧ txFull s = false ∧ t = { s with txq := s.txq ++ [v] }) ∨
        (∃ x word rest, i = .rxfRd x ∧ s.rxq = word :: rest ∧ t = setVar x word { s with rxq := rest }) ∨
        (∃ w, i = .pullAWr w ∧ t = startMap .a w (changed s.pullA w)
          { s with pullChg := setFlag .a (changed s.pullA w) s.pullChg, pullA := w }) ∨
        (∃ w, i = .pullBWr w ∧ t = startMap .b w (changed s.pullB w)
          { s with pullChg := setFlag .b (changed s.pullB w) s.pullChg, pullB := w }) ∨
        (∃ x v, t = setVar x v s))) := by
  by_cases hb : s.mapBusy = none
  · refine .inr ⟨hb, ?_⟩
    cases i <;> simp only [isAccess, Bool.false_eq_true] at hi <;>
      simp only [exec, execCtrlRd, execCtrlWr, execStatusRd, execTxfWr, execRxfRd, execPullAWr, execPullBWr,
        execPullARd, execPullBRd, execPullChgRd, whenMapIdle_idle hb] at h
    · cases h; exact .inr (.inr (.inr (.inr (.inr (.inr (.inr ⟨_, _, rfl⟩))))))
    · split at h
      · cases h; exact .inr (.inl ⟨_, .inl rfl, rfl⟩)
      · split at h
        · cases h; exact .inr (.inl ⟨_, .inr rfl, rfl⟩)
        · rename_i hn
          cases h
          refine .inr (.inr (.inl ⟨_, fun he => ?_, rfl⟩))
          simpa [he] using hn
    · cases h; exact .inr (.inr (.inr (.inr (.inr (.inr (.inr ⟨_, _, rfl⟩))))))
    · split at h
      · cases h; exact .inl ⟨_, rfl⟩
      · cases h; exact .inr (.inr (.inr (.inl ⟨_, rfl, Bool.eq_false_iff.2 ‹_›, rfl⟩)))
    · split at h
      · cases h; exact .inl ⟨_, rfl⟩
      · cases h; exact .inr (.inr (.inr (.inr (.inl ⟨_, _, _, rfl, ‹_›, rfl⟩))))
    · cases h; exact .inr (.inr (.inr (.inr (.inr (.inl ⟨_, rfl, rfl⟩)))))
    · cases h; exact .inr (.inr (.inr (.inr (.inr (.inr (.inl ⟨_, rfl, rfl⟩))))))
    · cases h; exact .inr (.inr (.inr (.inr (.inr (.inr (.inr ⟨_, _, rfl⟩))))))
    · cases h; exact .inr (.inr (.inr (.inr (.inr (.inr (.inr ⟨_, _, rfl⟩))))))
    · cases h; exact .inr (.inr (.inr (.inr (.inr (.inr (.inr ⟨_, _, rfl⟩))))))
  · rw [exec_access_busy hi hb] at h
    cases h; exact .inl rfl

end Sys2Proof.Machine
end

