-- ==== Sys2Proof/Laws/PerInstr.lean ====
section
/-! SUPPORT. A fact of each instruction's encoding, made per constructor: the fields that R101, R102 and R107 fix for
every admitted word. -/

namespace Sys2Proof.Laws.EncodingShape

/-- Whether an access writes its register (R107); a micro-operation is no access. -/
def writes (i : Instr) : Bool :=
  match i with
  | .ctrlWr _ | .txfWr _ | .pullAWr _ | .pullBWr _ => true
  | .ctrlRd _ | .statusRd _ | .rxfRd _ | .pullARd _ | .pullBRd _ | .pullChgRd _ => false
  | .pull | .outPindirs | .outPins | .inPins | .push => false

/-- "In every admitted word the delay / side-set field is 0b00000" and the count field encodes 32 as 0 (R101, R102);
an access code has W = 1 exactly when it writes, and an aligned offset below 0x1C (R107). -/
def Statement (i : Instr) : Prop :=
  match encode i with
  | .micro w => w.extractLsb' 8 5 = 0#5 ∧ w.extractLsb' 0 5 = 0#5 ∧ isAccessWord w.toNat = false
  | .access code _ _ =>
    code.getLsbD 12 = writes i ∧ code.extractLsb' 0 2 = 0#2 ∧ (code.extractLsb' 0 12).toNat < 0x1C ∧
      isAccessWord code.toNat = true

theorem pull : Statement .pull := ⟨rfl, rfl, rfl⟩
theorem outPindirs : Statement .outPindirs := ⟨rfl, rfl, rfl⟩
theorem outPins : Statement .outPins := ⟨rfl, rfl, rfl⟩
theorem inPins : Statement .inPins := ⟨rfl, rfl, rfl⟩
theorem push : Statement .push := ⟨rfl, rfl, rfl⟩
theorem ctrlRd (x : HostVar) : Statement (.ctrlRd x) := ⟨rfl, rfl, by decide, rfl⟩
theorem ctrlWr (v : Word) : Statement (.ctrlWr v) := ⟨rfl, rfl, by decide, rfl⟩
theorem statusRd (x : HostVar) : Statement (.statusRd x) := ⟨rfl, rfl, by decide, rfl⟩
theorem txfWr (v : Word) : Statement (.txfWr v) := ⟨rfl, rfl, by decide, rfl⟩
theorem rxfRd (x : HostVar) : Statement (.rxfRd x) := ⟨rfl, rfl, by decide, rfl⟩
theorem pullAWr (w : Word) : Statement (.pullAWr w) := ⟨rfl, rfl, by decide, rfl⟩
theorem pullBWr (w : Word) : Statement (.pullBWr w) := ⟨rfl, rfl, by decide, rfl⟩
theorem pullARd (x : HostVar) : Statement (.pullARd x) := ⟨rfl, rfl, by decide, rfl⟩
theorem pullBRd (x : HostVar) : Statement (.pullBRd x) := ⟨rfl, rfl, by decide, rfl⟩
theorem pullChgRd (x : HostVar) : Statement (.pullChgRd x) := ⟨rfl, rfl, by decide, rfl⟩

end Sys2Proof.Laws.EncodingShape
end

