-- ==== Sys2Proof/Laws/Step.lean ====
section
/-! SUPPORT. What a step of each agent can do, said once, and how a run unfolds. -/

namespace Sys2Proof.Machine

/-! ### The turn -/

theorem step_eq (s : State) : step s = agentStep (turnNow s) (tookTurn s) := rfl

theorem turnNow_cons {s : State} {turn : Turn} {later : List Turn} (h : s.sched = turn :: later) :
    turnNow s = turn := by
  simp [turnNow, h]

theorem tookTurn_cons {s : State} {turn : Turn} {later : List Turn} (h : s.sched = turn :: later) :
    tookTurn s = { s with sched := later } := by
  simp [tookTurn, h]

theorem step_cons {s : State} {turn : Turn} {later : List Turn} (h : s.sched = turn :: later) :
    step s = agentStep turn { s with sched := later } := by
  rw [step_eq, turnNow_cons h, tookTurn_cons h]

theorem step_seq {s : State} (h : turnNow s = .seq) : step s = seqStep (tookTurn s) := by
  rw [step_eq, h, agentStep]

theorem step_map {s : State} (h : turnNow s = .map) : step s = .next (mapStep (tookTurn s)) := by
  rw [step_eq, h, agentStep]

theorem step_host {s : State} (h : turnNow s = .host) : step s = hostStep (tookTurn s) := by
  rw [step_eq, h, agentStep]

theorem step_env {s : State} {e : EnvEvent} (h : turnNow s = .env e) : step s = .next (envStep e (tookTurn s)) := by
  rw [step_eq, h, agentStep]

@[simp] theorem getVal_tookTurn (v : HostVal) (s : State) : getVal v (tookTurn s) = getVal v s := by
  cases v with
  | lit w => rfl
  | var x => cases x <;> simp [getVal, getVar]

@[simp] theorem fetchWord_tookTurn (s : State) : fetchWord (tookTurn s) = fetchWord s := by
  simp [fetchWord]

@[simp] theorem mapActive_tookTurn (s : State) : mapActive (tookTurn s) = mapActive s := by
  simp [mapActive]

/-! ### SEQ -/

theorem seqStep_disabled {s : State} (h : s.seqEn = false ∨ s.refused = true) : seqStep s = .next s := by
  have : seqEnabled s = false := by rcases h with h | h <;> simp [seqEnabled, h]
  simp [seqStep, this]

theorem seqStep_fetch {s : State} {word : BitVec 16} (he : s.seqEn = true) (hr : s.refused = false)
    (hf : s.seqProg[s.seqPc.toNat]? = some word) :
    seqStep s = match decodeMicro word with
      | .ok i => exec i s
      | .error w => .next (refuse (.unknownMicroword s.seqPc w) s) := by
  have : seqEnabled s = true := by simp [seqEnabled, he, hr]
  cases hd : decodeMicro word <;> simp [seqStep, this, fetchWord, hf, hd]

/-- All a SEQ step can do (R140): nothing; a micro-operation it fetched; a refusal of the word it fetched. -/
theorem seqStep_cases {s t : State} (h : seqStep s = .next t) :
    t = s ∨
    (seqEnabled s = true ∧ ∃ word i, fetchWord s = some word ∧ decodeMicro word = .ok i ∧ exec i s = .next t) ∨
    (seqEnabled s = true ∧ ∃ word w, fetchWord s = some word ∧ decodeMicro word = .error w ∧
      t = refuse (.unknownMicroword s.seqPc w) s) := by
  simp only [seqStep] at h
  split at h
  · rename_i he
    split at h
    · cases h
    · rename_i word hf
      split at h
      · exact .inr (.inl ⟨he, word, _, hf, ‹_›, h⟩)
      · cases h
        exact .inr (.inr ⟨he, word, _, hf, ‹_›, rfl⟩)
  · cases h
    exact .inl rfl

/-! ### HOST -/

theorem decodeBus_error {write : Bool} {off width : Nat} {x : HostVar} {v : Word} {r : RefuseReason}
    (h : decodeBus write off width x v = .error r) (pc : BitVec 3) (w : BitVec 16) :
    r ≠ .unknownMicroword pc w := by
  unfold decodeBus at h
  repeat' split at h
  all_goals first
    | (cases h; intro e; cases e)
    | (rename_i r' _ _; cases r' <;> (simp [writeOf] at h; try (subst h; simp)))
    | (rename_i r' _ _; cases r' <;> (simp [readOf] at h; try (subst h; simp)))

theorem hostStep_cons {s : State} {op : HostOp} {rest : List HostOp} (h : s.hostProg = op :: rest) :
    hostStep s = hostOp op rest s := by
  simp [hostStep, hostPending, h]

theorem hostStep_top {s : State} (h : s.hostProg = []) :
    hostStep s = .next { s with polled := true, hostProg := .tryPullOutput :: exchange } := by
  simp [hostStep, hostPending, h, loopBody, hostOp]

theorem hostRun_idle {i : Instr} {s t : State} {rest : List HostOp} (h : s.mapBusy = none)
    (ht : exec i s = .next t) : hostRun i rest s = .next { t with hostProg := rest } := by
  simp [hostRun, ht, mapActive_eq_false.2 h]

theorem hostRun_busy {i : Instr} {s : State} {rest : List HostOp} (hi : isAccess i = true) (h : s.mapBusy ≠ none) :
    hostRun i rest s = .next s := by
  simp [hostRun, exec_access_busy hi h, mapActive_eq_true.2 h]

theorem hostRun_cases {i : Instr} {s t : State} {rest : List HostOp} (hi : isAccess i = true)
    (h : hostRun i rest s = .next t) :
    t = s ∨ (s.mapBusy = none ∧ ∃ u, exec i s = .next u ∧ t = { u with hostProg := rest }) := by
  by_cases hb : s.mapBusy = none
  · obtain ⟨u, hu⟩ := exec_next i s
    rw [hostRun_idle hb hu] at h
    cases h
    exact .inr ⟨hb, u, hu, rfl⟩
  · rw [hostRun_busy hi hb] at h
    cases h
    exact .inl rfl

/-! The accesses the programs of R116 and R265 are made of. -/

theorem hostOp_wrCtrl (v : HostVal) (rest : List HostOp) (s : State) :
    hostOp (wrCtrl v) rest s = hostRun (.ctrlWr (getVal v s)) rest s := rfl

theorem hostOp_wrTxf (v : HostVal) (rest : List HostOp) (s : State) :
    hostOp (wrTxf v) rest s = hostRun (.txfWr (getVal v s)) rest s := rfl

theorem hostOp_rdRxf (x : HostVar) (rest : List HostOp) (s : State) :
    hostOp (rdRxf x) rest s = hostRun (.rxfRd x) rest s := rfl

theorem hostOp_wrPullA (v : HostVal) (rest : List HostOp) (s : State) :
    hostOp (wrPullA v) rest s = hostRun (.pullAWr (getVal v s)) rest s := rfl

theorem hostOp_wrPullB (v : HostVal) (rest : List HostOp) (s : State) :
    hostOp (wrPullB v) rest s = hostRun (.pullBWr (getVal v s)) rest s := rfl

/-- All a HOST step can do with the operation `op`: hold; be refused; run a window access; or one of the operations
that touch no register. -/
theorem hostOp_cases {op : HostOp} {rest : List HostOp} {s t : State} (h : hostOp op rest s = .next t) :
    t = s ∨
    (∃ r, (∀ pc w, r ≠ .unknownMicroword pc w) ∧ t = { refuse r s with hostProg := rest }) ∨
    (s.mapBusy = none ∧ ∃ i u, isAccess i = true ∧ exec i s = .next u ∧
      ((∃ bit, op = .waitStatus bit ∧ t = u) ∨ t = { u with hostProg := rest })) ∨
    (op = .poll ∧ t = { s with polled := true, hostProg := rest }) ∨
    (op = .tryPullOutput ∧ t = { s with
      usbOut := none
      hostProg := match pulledReport s with | none => rest | some b => .applyReport b :: rest }) ∨
    (∃ b, op = .applyReport b ∧ t = { s with
      lsDirection := (decodeOutput b).direction
      lsOutput := (decodeOutput b).output
      hostProg := setPulls (.lit (decodeOutput b).pullA) (.lit (decodeOutput b).pullB) ++ rest }) ∨
    (op = .pushInput ∧ t = { s with inBuf := some (snapshotInput s), hostProg := rest }) := by
  have access : ∀ {write off width x v}, hostAccess (decodeBus write off width x v) rest s = .next t →
      t = s ∨ (∃ r, (∀ pc w, r ≠ .unknownMicroword pc w) ∧ t = { refuse r s with hostProg := rest }) ∨
      (s.mapBusy = none ∧ ∃ i u, isAccess i = true ∧ exec i s = .next u ∧
        ((∃ bit, op = .waitStatus bit ∧ t = u) ∨ t = { u with hostProg := rest })) := by
    intro write off width x v h
    cases hd : decodeBus write off width x v with
    | error r =>
      rw [hd] at h
      cases h
      exact .inr (.inl ⟨r, decodeBus_error hd, rfl⟩)
    | ok i =>
      rw [hd] at h
      have hi := isAccess_of_decodeBus hd
      rcases hostRun_cases hi h with h | ⟨hb, u, hu, h⟩
      · exact .inl h
      · exact .inr (.inr ⟨hb, i, u, hi, hu, .inr h⟩)
  cases op with
  | access code x v =>
    rcases access h with h | h | h
    exacts [.inl h, .inr (.inl h), .inr (.inr (.inl h))]
  | bus write addr width x v =>
    simp only [hostOp] at h
    split at h
    · cases h
    · rcases access h with h | h | h
      exacts [.inl h, .inr (.inl h), .inr (.inr (.inl h))]
  | waitStatus bit =>
    simp only [hostOp] at h
    by_cases hb : s.mapBusy = none
    · obtain ⟨u, hu⟩ := exec_next (.statusRd .varT) s
      simp only [hu] at h
      split at h
      · cases h
        exact .inr (.inr (.inl ⟨hb, _, _, rfl, hu, .inl ⟨bit, rfl, rfl⟩⟩))
      · cases h
        exact .inr (.inr (.inl ⟨hb, _, _, rfl, hu, .inr rfl⟩))
    · simp only [exec_access_busy (i := .statusRd .varT) rfl hb, mapActive_eq_true.2 hb, Bool.true_or, if_true] at h
      cases h
      exact .inl rfl
  | send v =>
    simp only [hostOp] at h
    split at h
    · cases h; exact .inl rfl
    · rcases hostRun_cases rfl h with h | ⟨hb, u, hu, h⟩
      · exact .inl h
      · exact .inr (.inr (.inl ⟨hb, _, u, rfl, hu, .inr h⟩))
  | recv x =>
    simp only [hostOp] at h
    split at h
    · cases h; exact .inl rfl
    · rcases hostRun_cases rfl h with h | ⟨hb, u, hu, h⟩
      · exact .inl h
      · exact .inr (.inr (.inl ⟨hb, _, u, rfl, hu, .inr h⟩))
  | poll => cases h; exact .inr (.inr (.inr (.inl ⟨rfl, rfl⟩)))
  | tryPullOutput => cases h; exact .inr (.inr (.inr (.inr (.inl ⟨rfl, rfl⟩))))
  | applyReport b => cases h; exact .inr (.inr (.inr (.inr (.inr (.inl ⟨b, rfl, rfl⟩)))))
  | pushInput => cases h; exact .inr (.inr (.inr (.inr (.inr (.inr ⟨rfl, rfl⟩)))))

/-- HOST's step is always one operation: its program's first, or the poll at the top of the loop (R265). -/
theorem hostStep_op (s : State) : ∃ op rest, hostStep s = hostOp op rest s := by
  cases h : s.hostProg with
  | nil => exact ⟨.poll, .tryPullOutput :: exchange, by simp [hostStep, hostPending, h, loopBody]⟩
  | cons op rest => exact ⟨op, rest, hostStep_cons h⟩

/-- What HOST leaves alone: SEQ's latches and index, the pin words, pads, drive and levels; marks and the enable stay
set; the queues move by one word at HOST's end; a running reconfiguration is not touched. -/
structure HostFrame (s t : State) : Prop where
  params : t.params = s.params
  seqProg : t.seqProg = s.seqProg
  osr : t.osr = s.osr
  isr : t.isr = s.isr
  seqPc : t.seqPc = s.seqPc
  pindir : t.pindir = s.pindir
  pinout : t.pinout = s.pinout
  padPull : t.padPull = s.padPull
  ext : t.ext = s.ext
  level : t.level = s.level
  draws : t.draws = s.draws
  seqEn : s.seqEn = true → t.seqEn = true
  refused : s.refused = true → t.refused = true
  faults : ∀ f ∈ s.faults, f ∈ t.faults
  reasons : ∀ r ∈ s.reasons, r ∈ t.reasons
  txq : t.txq = s.txq ∨ ∃ v, t.txq = s.txq ++ [v]
  rxq : t.rxq = s.rxq ∨ ∃ v, s.rxq = v :: t.rxq
  mapBusy : s.mapBusy ≠ none → t.mapBusy = s.mapBusy

theorem exec_access_frame {i : Instr} {s t : State} (hi : isAccess i = true) (h : exec i s = .next t) :
    HostFrame s t := by
  rcases exec_access_cases hi h with rfl | ⟨hb, ⟨f, rfl⟩ | ⟨r, _, rfl⟩ | ⟨b, hb', rfl⟩ | ⟨v, rfl, _, rfl⟩ |
    ⟨x, w, r, rfl, hq, rfl⟩ | ⟨w, rfl, rfl⟩ | ⟨w, rfl, rfl⟩ | ⟨x, v, rfl⟩⟩ <;> constructor <;> simp_all

theorem hostStep_frame {s t : State} (h : hostStep s = .next t) : HostFrame s t := by
  obtain ⟨op, rest, e⟩ := hostStep_op s
  rw [e] at h
  rcases hostOp_cases h with rfl | ⟨r, _, rfl⟩ | ⟨_, i, u, hi, hu, ⟨_, _, rfl⟩ | rfl⟩ | ⟨rfl, rfl⟩ | ⟨rfl, rfl⟩ |
    ⟨b, rfl, rfl⟩ | ⟨rfl, rfl⟩
  · constructor <;> simp
  · constructor <;> simp_all
  · exact exec_access_frame hi hu
  · have f := exec_access_frame hi hu
    exact ⟨f.params, f.seqProg, f.osr, f.isr, f.seqPc, f.pindir, f.pinout, f.padPull, f.ext, f.level, f.draws,
      f.seqEn, f.refused, f.faults, f.reasons, f.txq, f.rxq, f.mapBusy⟩
  all_goals constructor <;> simp

/-! ### Runs -/

theorem run_zero (s : State) : Host.Core.run core 0 s = .next s := rfl

theorem run_succ {s t : State} (n : Nat) (h : step s = .next t) :
    Host.Core.run core (n + 1) s = Host.Core.run core n t := by
  have h' : core.step s = .next t := h
  simp only [Host.Core.run, h']

/-- A run of `n + 1` steps that goes on begins with a step that does. -/
theorem run_succ_next {s t : State} {n : Nat} (h : Host.Core.run core (n + 1) s = .next t) :
    ∃ u, step s = .next u ∧ Host.Core.run core n u = .next t := by
  cases hs : step s with
  | next u => exact ⟨u, rfl, by rwa [run_succ n hs] at h⟩
  | fault f =>
    have h' : core.step s = .fault f := hs
    simp only [Host.Core.run, h'] at h
    cases h
  | refused r =>
    have h' : core.step s = .refused r := hs
    simp only [Host.Core.run, h'] at h
    cases h

theorem run_add {s t : State} (m n : Nat) (h : Host.Core.run core m s = .next t) :
    Host.Core.run core (m + n) s = Host.Core.run core n t := by
  induction m generalizing s with
  | zero => cases h; rw [Nat.zero_add]
  | succ m ih =>
    obtain ⟨u, hu, h⟩ := run_succ_next h
    rw [Nat.succ_add, run_succ _ hu, ih h]

end Sys2Proof.Machine
end

