-- ==== Sys2Proof/Laws/Turns.lean ====
section
/-! SUPPORT. The order of turns: what a step leaves of it, and that SEQ, MAP and HOST each get another turn after
finitely many steps (spec/70_reset_and_hazards.md R371), with the rule by which a claim of progress uses that. -/

namespace Sys2Proof.Machine

/-! ### A step leaves the order of turns alone -/

theorem turnNow_congr {s t : State} (h : t.sched = s.sched) (hk : t.tick = s.tick) : turnNow t = turnNow s := by
  simp only [turnNow, h, hk]

theorem tookTurn_sched_congr {s t : State} (h : t.sched = s.sched) (hk : t.tick = s.tick) :
    (tookTurn t).sched = (tookTurn s).sched := by
  unfold tookTurn
  rw [h, hk]
  split <;> rfl

theorem tookTurn_tick_congr {s t : State} (h : t.sched = s.sched) (hk : t.tick = s.tick) :
    (tookTurn t).tick = (tookTurn s).tick := by
  unfold tookTurn
  rw [h]
  split <;> simp [hk]

theorem exec_turns {i : Instr} {s t : State} (h : exec i s = .next t) : t.sched = s.sched ∧ t.tick = s.tick := by
  by_cases hi : isAccess i = true
  · rcases exec_access_cases hi h with rfl | ⟨_, ⟨f, rfl⟩ | ⟨r, _, rfl⟩ | ⟨b, _, rfl⟩ | ⟨v, rfl, _, rfl⟩ |
      ⟨x, w, r, rfl, _, rfl⟩ | ⟨w, rfl, rfl⟩ | ⟨w, rfl, rfl⟩ | ⟨x, v, rfl⟩⟩ <;> simp
  · rcases exec_micro_cases (by simpa using hi) h with rfl | ⟨_, _, _, _, rfl⟩ | ⟨_, rfl⟩ | ⟨_, rfl⟩ | ⟨_, rfl⟩ |
      ⟨_, _, rfl⟩ <;> simp

theorem agentStep_turns {turn : Turn} {s t : State} (h : agentStep turn s = .next t) :
    t.sched = s.sched ∧ t.tick = s.tick := by
  cases turn with
  | seq =>
    rcases seqStep_cases h with rfl | ⟨_, _, _, _, _, he⟩ | ⟨_, _, _, _, _, rfl⟩
    exacts [⟨rfl, rfl⟩, exec_turns he, ⟨refuse_sched _ _, refuse_tick _ _⟩]
  | host =>
    obtain ⟨op, rest, e⟩ := hostStep_op s
    have h : hostStep s = .next t := h
    rw [e] at h
    rcases hostOp_cases h with rfl | ⟨r, _, rfl⟩ | ⟨_, i, u, _, hu, ⟨_, _, rfl⟩ | rfl⟩ | ⟨_, rfl⟩ | ⟨_, rfl⟩ |
      ⟨b, _, rfl⟩ | ⟨_, rfl⟩
    all_goals first
      | exact exec_turns hu
      | exact ⟨(exec_turns hu).1, (exec_turns hu).2⟩
      | simp
  | map => cases h; simp
  | env e => cases h; simp

theorem step_turns {s t : State} (h : step s = .next t) :
    t.sched = (tookTurn s).sched ∧ t.tick = (tookTurn s).tick := agentStep_turns h

/-! ### Every agent gets another turn -/

/-- An agent has the turn after exactly `n` further turns. -/
def HasTurnIn (agent : Turn) : Nat → State → Prop
  | 0, s => turnNow s = agent
  | n + 1, s => HasTurnIn agent n (tookTurn s)

theorem HasTurnIn.congr {agent : Turn} {n : Nat} {s t : State} (h : t.sched = s.sched) (hk : t.tick = s.tick)
    (ht : HasTurnIn agent n s) : HasTurnIn agent n t := by
  induction n generalizing s t with
  | zero => exact (turnNow_congr h hk).trans ht
  | succ n ih => exact ih (tookTurn_sched_congr h hk) (tookTurn_tick_congr h hk) ht

theorem hasTurnIn_of_mem {agent : Turn} : ∀ {turns : List Turn} {s : State}, s.sched = turns → agent ∈ turns →
    ∃ n, HasTurnIn agent n s
  | [], _, _, h => by simp at h
  | turn :: later, s, hs, h => by
    by_cases ht : turn = agent
    · exact ⟨0, by rw [HasTurnIn, turnNow_cons hs, ht]⟩
    · obtain ⟨n, hn⟩ := hasTurnIn_of_mem (s := tookTurn s) (turns := later) (by rw [tookTurn_cons hs])
        ((List.mem_cons.1 h).resolve_left (Ne.symm ht))
      exact ⟨n + 1, hn⟩

theorem mem_round {agent : Turn} (h : agent ∈ [Turn.seq, .map, .host]) (r : Round) : agent ∈ r.turns := by
  simp only [List.mem_cons, List.not_mem_nil, or_false] at h
  rcases h with rfl | rfl | rfl <;> simp [Round.turns]

/-- Where no turn is decided, the next turns are those of the next round. -/
theorem turnNow_round {s : State} (h : s.sched = []) :
    turnNow s :: (tookTurn s).sched = (Config.schedule s.tick).turns := by
  simp only [turnNow, tookTurn, h]
  cases hr : (Config.schedule s.tick).turns with
  | nil => exact absurd (mem_round (agent := .seq) (by simp) (Config.schedule s.tick)) (by simp [hr])
  | cons turn later => rfl

theorem hasTurnIn_round {agent : Turn} (ha : agent ∈ [Turn.seq, .map, .host]) {s : State} (h : s.sched = []) :
    ∃ n, HasTurnIn agent n s := by
  have hm := mem_round ha (Config.schedule s.tick)
  rw [← turnNow_round h] at hm
  by_cases ht : turnNow s = agent
  · exact ⟨0, ht⟩
  · obtain ⟨n, hn⟩ := hasTurnIn_of_mem (s := tookTurn s) rfl ((List.mem_cons.1 hm).resolve_left (Ne.symm ht))
    exact ⟨n + 1, hn⟩

/-- SEQ, MAP and HOST each get another turn (R371). -/
theorem exists_hasTurnIn {agent : Turn} (ha : agent ∈ [Turn.seq, .map, .host]) :
    ∀ (turns : List Turn) (s : State), s.sched = turns → ∃ n, HasTurnIn agent n s
  | [], _, h => hasTurnIn_round ha h
  | turn :: later, s, h => by
    obtain ⟨n, hn⟩ := exists_hasTurnIn ha later (tookTurn s) (by rw [tookTurn_cons h])
    exact ⟨n + 1, hn⟩

/-! ### Progress -/

/-- The rule of progress: where, while the agent has not the turn, every step from `P` goes on and stays in `P` or
reaches `Q`, a run from `P` reaches `Q`, or a state of `P` in which the agent has the turn. -/
theorem reaches_turn {P Q : State → Prop} {agent : Turn} (ha : agent ∈ [Turn.seq, .map, .host])
    (hstep : ∀ s, P s → turnNow s ≠ agent → ∃ t, step s = .next t ∧ (P t ∨ Q t)) {s : State} (hs : P s) :
    ∃ (k : Nat) (t : State), Host.Core.run core k s = .next t ∧ (Q t ∨ (P t ∧ turnNow t = agent)) := by
  obtain ⟨n, hn⟩ := exists_hasTurnIn ha s.sched s rfl
  induction n generalizing s with
  | zero => exact ⟨0, s, rfl, .inr ⟨hs, hn⟩⟩
  | succ n ih =>
    by_cases hne : turnNow s = agent
    · exact ⟨0, s, rfl, .inr ⟨hs, hne⟩⟩
    · obtain ⟨t, ht, hp | hq⟩ := hstep s hs hne
      · obtain ⟨k, u, hk, hu⟩ := ih hp (hn.congr (step_turns ht).1 (step_turns ht).2)
        exact ⟨k + 1, u, by rw [run_succ k ht, hk], hu⟩
      · exact ⟨1, t, by rw [run_succ 0 ht, run_zero], .inl hq⟩

/-- The same where a step the agent takes from `P` always reaches `Q`. -/
theorem reaches {P Q : State → Prop} {agent : Turn} (ha : agent ∈ [Turn.seq, .map, .host])
    (hstep : ∀ s, P s → ∃ t, step s = .next t ∧ (Q t ∨ (P t ∧ turnNow s ≠ agent))) {s : State} (hs : P s) :
    ∃ (k : Nat) (t : State), Host.Core.run core k s = .next t ∧ Q t := by
  obtain ⟨k, t, hk, hq | ⟨hp, ht⟩⟩ := reaches_turn (Q := Q) ha (fun s hs _ => by
    obtain ⟨t, ht, hq | ⟨hp, _⟩⟩ := hstep s hs
    exacts [⟨t, ht, .inr hq⟩, ⟨t, ht, .inl hp⟩]) hs
  · exact ⟨k, t, hk, hq⟩
  · obtain ⟨u, hu, hq | ⟨_, hne⟩⟩ := hstep t hp
    · exact ⟨k + 1, u, by rw [run_add k 1 hk, run_succ 0 hu, run_zero], hq⟩
    · exact absurd ht hne

end Sys2Proof.Machine
end

