-- ==== Sys2Proof/WellFormed.lean ====
section
/-! DEFINITION. The checks on syntax: what the spec asks of a program that it does not leave to the block to
refuse at run time. No meaning of the model depends on them; an ill-formed term still runs, to the refusal
the spec gives it. -/

namespace Sys2Proof

/-- "bits 31:1 reserved, ... must be written 0" (R52). Every other instruction is well formed whatever its
operands. -/
def Instr.wellFormed (i : Instr) : Bool :=
  match i with
  | .ctrlWr v => decide (v >>> 1 = 0)
  | .pull | .outPindirs | .outPins | .inPins | .push => true
  | .ctrlRd _ | .statusRd _ | .txfWr _ | .rxfRd _ => true
  | .pullAWr _ | .pullBWr _ | .pullARd _ | .pullBRd _ | .pullChgRd _ => true

/-- HOST's duty "use 32-bit aligned accesses to the 7 defined registers" (R271): the access passes the checks of
R188 that do not depend on the state, and is a well-formed instruction. -/
def HostOp.wellFormed (p : Params) (op : HostOp) : Bool :=
  match op with
  | .access code x (.lit v) => ((okOption (decodeAccess code x v)).map Instr.wellFormed).getD false
  | .access code x (.var _) => (okOption (decodeAccess code x 0)).isSome
  | .bus write addr width x (.lit v) =>
      decide (4 * p.blockBaseWord ≤ addr) &&
        ((okOption (decodeBus write (addr - 4 * p.blockBaseWord) width x v)).map Instr.wellFormed).getD false
  | .bus write addr width x (.var _) =>
      decide (4 * p.blockBaseWord ≤ addr) &&
        (okOption (decodeBus write (addr - 4 * p.blockBaseWord) width x 0)).isSome
  | .waitStatus bit => decide (bit < 32)
  | .send _ | .recv _ | .poll | .tryPullOutput | .applyReport _ | .pushInput => true

/-- Every word of a program store is one of the five admitted words (R104). -/
def progWellFormed (prog : Vector (BitVec 16) 6) : Bool :=
  prog.toList.all fun w => (okOption (decodeMicro w)).isSome

end Sys2Proof
end

