-- ==== Sys2Proof/Tests/Slice0.lean ====
section
/-! SUPPORT. Tests whose expected results are the spec's (spec/30_encoding.md R102 to R107, spec/95_test_vectors.md), and
for every statement with hypotheses a concrete state that meets them. -/

namespace Sys2Proof.Tests

open Sys2Proof.Machine Sys2Proof.Safety

/-! ### States -/

/-- Both queues four words deep, the depth of the vectors V10, V36 and V38; the window at 0x1000. -/
def params4 : Params where
  txqDepthPred := 3
  rxqDepthPred := 3
  clkDivPred := 0
  blockBaseWord := 0x400

/-- A started block, HOST at the top of its loop, every pad pulled down, every line low and undriven. -/
def quiet : State :=
  { State.reset with
    params := params4
    seqEn := true
    padPull := Vector.replicate 26 .down
    level := Vector.replicate 26 false
    ext := Vector.replicate 26 .z
    hostProg := [] }

/-- A quiet block with a reconfiguration of a group at an index. -/
def mapping (g : Group) (w : Word) (i : Fin 16) : State :=
  { quiet with mapBusy := some ⟨g, w, i⟩, sched := [.map] }

/-- A check on the next state, false where the step stops. -/
def nextHas (r : Result) (check : State → Bool) : Bool :=
  match r with
  | .next t => check t
  | .fault _ => false
  | .refused _ => false

/-- A HOST step of a quiet block whose program is one operation. -/
def hostDoes (op : HostOp) (s : State) : Result := step { s with hostProg := [op], sched := [.host] }

/-! ### Decoding: each word written out from its fields (R102, R107) -/

theorem test_decode_pull : decodeMicro 0b100_00000_1_0_1_00000#16 = .ok .pull := by decide
theorem test_decode_outPindirs : decodeMicro 0b011_00000_100_00000#16 = .ok .outPindirs := by decide
theorem test_decode_outPins : decodeMicro 0b011_00000_000_00000#16 = .ok .outPins := by decide
theorem test_decode_inPins : decodeMicro 0b010_00000_000_00000#16 = .ok .inPins := by decide
theorem test_decode_push : decodeMicro 0b100_00000_0_0_1_00000#16 = .ok .push := by decide
theorem test_decode_ctrlRd : decodeAccess 0b0_000000000000#13 .varC 7 = .ok (.ctrlRd .varC) := by decide
theorem test_decode_ctrlWr : decodeAccess 0b1_000000000000#13 .varC 7 = .ok (.ctrlWr 7) := by decide
theorem test_decode_statusRd : decodeAccess 0b0_000000000100#13 .varC 7 = .ok (.statusRd .varC) := by decide
theorem test_decode_txfWr : decodeAccess 0b1_000000001000#13 .varC 7 = .ok (.txfWr 7) := by decide
theorem test_decode_rxfRd : decodeAccess 0b0_000000001100#13 .varC 7 = .ok (.rxfRd .varC) := by decide
theorem test_decode_pullAWr : decodeAccess 0b1_000000010000#13 .varC 7 = .ok (.pullAWr 7) := by decide
theorem test_decode_pullBWr : decodeAccess 0b1_000000010100#13 .varC 7 = .ok (.pullBWr 7) := by decide
theorem test_decode_pullARd : decodeAccess 0b0_000000010000#13 .varC 7 = .ok (.pullARd .varC) := by decide
theorem test_decode_pullBRd : decodeAccess 0b0_000000010100#13 .varC 7 = .ok (.pullBRd .varC) := by decide
theorem test_decode_pullChgRd : decodeAccess 0b0_000000011000#13 .varC 7 = .ok (.pullChgRd .varC) := by decide

/-- R105: words of the general format outside the five, a non-zero delay and a count of 31 among them. -/
theorem test_decode_unadmitted :
    decodeMicro 0b100_00001_1_0_1_00000#16 = .error 0x81A0#16 ∧ decodeMicro 0b011_00000_000_11111#16 = .error 0x601F#16 ∧
    decodeMicro 0x0000#16 = .error 0x0000#16 ∧ decodeMicro 0x8000#16 = .error 0x8000#16 := by decide

/-- V41 to V44. -/
theorem test_decode_refused :
    decodeAccess 0x0008#13 .varX 0 = .error .readWriteOnly ∧ decodeAccess 0x1004#13 .varX 0 = .error .writeReadOnly ∧
    decodeAccess 0x001C#13 .varX 0 = .error .reservedOffset ∧ decodeAccess 0x1020#13 .varX 0 = .error .reservedOffset ∧
    decodeAccess 0x0002#13 .varX 0 = .error .misalignedAccess := by decide

/-- V45 and R306: the width is checked first. -/
theorem test_decode_width :
    decodeBus false 2 8 .varX 0 = .error .badWidth ∧ decodeBus true 0x1E 64 .varX 0 = .error .badWidth ∧
    decodeBus true 0x1E 32 .varX 0 = .error .misalignedAccess := by decide

theorem test_tableWord :
    decodeTableWord 16 0x80A0 = some .pull ∧ decodeTableWord 16 0x0018 = some (.pullChgRd .varX) ∧
    decodeTableWord 48 0xDEADBEEF1008 = some (.txfWr 0xDEADBEEF) ∧ decodeTableWord 16 0x1004 = none ∧
    decodeTableWord 16 0x2000 = none := by decide

/-! ### Well-formedness: each check refuses a term -/

theorem test_wellFormed_ctrlWr :
    Instr.wellFormed (.ctrlWr 3) = false ∧ Instr.wellFormed (.ctrlWr 0x80000001) = false ∧
    Instr.wellFormed (.ctrlWr 1) = true := by decide

theorem test_wellFormed_access :
    HostOp.wellFormed params4 (.access 0x001C#13 .varX (.lit 0)) = false ∧
    HostOp.wellFormed params4 (.access 0x1004#13 .varX (.var .varC)) = false ∧
    HostOp.wellFormed params4 (.access 0x1008#13 .varX (.var .varC)) = true := by decide

theorem test_wellFormed_bus :
    HostOp.wellFormed params4 (.bus true 0x1008 8 .varX (.lit 0)) = false ∧
    HostOp.wellFormed params4 (.bus true 0x0FFC 32 .varX (.lit 0)) = false ∧
    HostOp.wellFormed params4 (.bus false 0x1008 32 .varX (.var .varC)) = false ∧
    HostOp.wellFormed params4 (.bus true 0x1008 32 .varX (.lit 0)) = true := by decide

theorem test_wellFormed_waitStatus :
    HostOp.wellFormed params4 (.waitStatus 32) = false ∧ HostOp.wellFormed params4 (.waitStatus 31) = true := by decide

theorem test_wellFormed_program :
    progWellFormed (microprogram.set 3 0x6001#16) = false ∧ progWellFormed microprogram = true := by decide

/-! ### Micro-operations -/

/-- V3. -/
theorem test_pull_takes_head :
    nextHas (exec .pull { quiet with txq := [0, 0x12345678], seqPc := 2 })
      (fun t => t.osr == 0 && t.txq == [0x12345678] && t.seqPc == 3) = true := by decide

/-- V4: the pin drives the old output bit. -/
theorem test_outPindirs_drives_old_bit :
    nextHas (exec .outPindirs { quiet with osr := 1, seqPc := 1, level := Vector.replicate 26 true })
      (fun t => t.pindir == 1 && t.osr == 0 && !t.level[0] && t.seqPc == 2) = true := by decide

/-- V7: ordinals 23, 24 and 25 are the pins 26, 27 and 28. -/
theorem test_outPins_upper_pins :
    nextHas (exec .outPins { quiet with pindir := 0x1C000000, osr := 0x14000000, seqPc := 3 })
      (fun t => t.pinout == 0x14000000 && t.level[23] && !t.level[24] && t.level[25]) = true := by decide

/-- V8, under the mask. -/
theorem test_inPins_sample : ∃ t, exec .inPins { quiet with pindir := 3, pinout := 1, seqPc := 4 } = .next t ∧
    t.seqPc = 5 ∧ ∀ k : Pin, t.isr.getLsbD (physPin k) = decide (k.val = 0) := by
  refine ⟨_, rfl, rfl, fun k => ?_⟩
  simp only [sampleWord_physPin, refreshAll_level]
  revert k
  decide

/-- V9. -/
theorem test_push_appends :
    nextHas (exec .push { quiet with isr := 5, seqPc := 5 })
      (fun t => t.rxq == [5] && t.isr == 0 && t.seqPc == 0) = true := by decide

/-- V10. -/
theorem test_push_holds :
    nextHas (exec .push { quiet with isr := 5, seqPc := 5, rxq := [1, 2, 3, 4] })
      (fun t => decide (t = { quiet with isr := 5, seqPc := 5, rxq := [1, 2, 3, 4] })) = true := by decide

/-! ### Channel interface -/

/-- V30. -/
theorem test_ctrlRd : nextHas (exec (.ctrlRd .varX) { quiet with seqEn := false, varX := 9 }) (·.varX == 0) = true := by
  decide

/-- V32. -/
theorem test_ctrlWr_stop :
    nextHas (exec (.ctrlWr 0) quiet) (fun t => t.refused && t.seqEn && t.reasons == [.seqStop]) = true := by decide

/-- V33. -/
theorem test_ctrlWr_reserved :
    nextHas (exec (.ctrlWr 3) { quiet with seqEn := false })
      (fun t => t.refused && !t.seqEn && t.reasons == [.ctrlReservedBits]) = true := by decide

/-- V35. -/
theorem test_statusRd_levels :
    nextHas (exec (.statusRd .varX) { quiet with txq := [1, 2], rxq := [3] }) (·.varX == 0x00010200) = true := by decide

/-- V36. -/
theorem test_statusRd_full :
    nextHas (exec (.statusRd .varX) { quiet with txq := [1, 2, 3, 4] }) (·.varX == 0x00000409) = true := by decide

/-- V37. -/
theorem test_txfWr : nextHas (exec (.txfWr 0xDEADBEEF) quiet) (·.txq == [0xDEADBEEF]) = true := by decide

/-- V38. -/
theorem test_txfWr_overflow :
    nextHas (exec (.txfWr 1) { quiet with txq := [1, 2, 3, 4] })
      (fun t => t.txq == [1, 2, 3, 4] && t.faults == [.txOverflow 1] && !t.refused) = true := by decide

/-- V39. -/
theorem test_rxfRd :
    nextHas (exec (.rxfRd .varX) { quiet with rxq := [5, 7] }) (fun t => t.varX == 5 && t.rxq == [7]) = true := by decide

/-- V40. -/
theorem test_rxfRd_underflow :
    nextHas (exec (.rxfRd .varX) { quiet with varX := 9 })
      (fun t => t.varX == 9 && t.faults == [.rxUnderflow]) = true := by decide

/-! ### Pull mapper -/

/-- R214, the example. -/
theorem test_pullAWr :
    nextHas (exec (.pullAWr 0xE4) { quiet with pullChg := 0b10 })
      (fun t => t.pullChg == 0b11 && t.pullA == 0xE4 && t.mapBusy == some ⟨.a, 0xE4, 0⟩) = true := by decide

/-- V61. -/
theorem test_pullAWr_same :
    nextHas (exec (.pullAWr 0x55555555) { quiet with pullA := 0x55555555, pullChg := 0b11 })
      (fun t => t.pullChg == 0b10 && t.mapBusy == none) = true := by decide

/-- V63: a difference in unmapped bits alone sets the flag. -/
theorem test_pullBWr_unmapped :
    nextHas (exec (.pullBWr 0x000FC000) quiet)
      (fun t => t.pullChg == 0b10 && t.mapBusy == some ⟨.b, 0x000FC000, 0⟩) = true := by decide

theorem test_pullARd : nextHas (exec (.pullARd .varC) { quiet with pullA := 0x55 }) (·.varC == 0x55) = true := by decide

/-- V66. -/
theorem test_pullBRd :
    nextHas (exec (.pullBRd .varX) { quiet with pullB := 0x03F03FFF }) (·.varX == 0x03F03FFF) = true := by decide

/-- V65. -/
theorem test_pullChgRd :
    nextHas (exec (.pullChgRd .varX) { quiet with pullChg := 0b01 })
      (fun t => t.varX == 1 && t.pullChg == 0b01) = true := by decide

/-- V48. -/
theorem test_access_holds :
    nextHas (exec (.statusRd .varX) (mapping .b 5 7)) (fun t => decide (t = mapping .b 5 7)) = true := by decide

/-- V67. -/
theorem test_map_unmapped :
    nextHas (step (mapping .b 0xFFFFFFFF 7))
      (fun t => t.padPull == quiet.padPull && t.mapBusy == some ⟨.b, 0xFFFFFFFF, 8⟩) = true := by decide

/-- V68. -/
theorem test_map_last :
    nextHas (step (mapping .a 0x40000000 15))
      (fun t => t.padPull == quiet.padPull.set 15 .up && t.level[15] && t.mapBusy == none) = true := by decide

/-- V50 to V53: the four codes of one word. -/
theorem test_pullCodes :
    (List.ofFn fun i : Fin 4 => decodePull (pullCode 0x000000E4 (i.castLE (by decide)))) =
      [.none, .up, .down, .keep] := by decide

/-- V56: index 10 of Group B is pin 26. -/
theorem test_groupB_upper :
    groupPin .b 10 = some 23 ∧ physPin 23 = 26 ∧ pullCode 0x03900000 11 = 2 ∧ decodePull 2 = .down := by decide

/-! ### Host protocol -/

/-- V70. -/
theorem test_decodeOutput :
    decodeOutput #v[1, 2, 3, 4, 5, 6, 7, 8, 9, 10, 11, 12, 13, 14, 15, 16] =
      ⟨0x04030201, 0x08070605, 0x0C0B0A09, 0x100F0E0D⟩ := by decide

/-- V71. -/
theorem test_encodeInput : encodeInput 0x12345678 = #v[0x78, 0x56, 0x34, 0x12] := by decide

/-- V72. -/
theorem test_short_packet : reportOf (List.replicate 15 0xFF) = none := by decide

/-- V74, its first half. -/
theorem test_no_packet :
    nextHas (hostDoes .tryPullOutput quiet) (fun t => t.hostProg == [] && t.usbOut == none && t.inBuf == none) = true := by
  decide

/-- V46. -/
theorem test_send_holds :
    nextHas (hostDoes (.send (.lit 1)) { quiet with txq := [1, 2, 3, 4] })
      (fun t => t.txq == [1, 2, 3, 4] && t.hostProg == [.send (.lit 1)] && t.faults == []) = true := by decide

/-- V75. -/
theorem test_pushInput_newest :
    nextHas (hostDoes .pushInput { quiet with lsInput := 0x15, inBuf := some #v[1, 2, 3, 4] })
      (·.inBuf == some #v[0x15, 0, 0, 0]) = true := by decide

/-- R76: an access below the window is not one to the block. -/
theorem test_bus_outside : hostDoes (.bus true 0xFFC 32 .varX (.lit 0)) quiet = .refused (.outsideBlock 0xFFC) := by
  rfl

/-! ### Placing an instruction -/

/-- The step after withFetchWord, from reset, runs that instruction. -/
theorem test_withFetchWord_txf :
    nextHas (step (State.reset.withFetchWord 48 0x000000051008)) (·.txq == [5]) = true := by rfl

theorem test_withFetchWord_outPins :
    nextHas (step (State.reset.withFetchWord 16 0x6000)) (·.seqPc == 4) = true := by rfl

/-! ### Witnesses: for each statement with hypotheses, a state and operands that meet them together -/

/-- A quiet block with a SEQ turn. -/
def seqTurn (s : State) : State := { s with sched := [.seq] }

/-- A quiet block with a HOST turn and one operation to do. -/
def hostTurn (op : HostOp) (s : State) : State := { s with hostProg := [op], sched := [.host] }

theorem witness_PullTakesTheHead :
    ({ quiet with txq := [7, 8] } : State).txq = 7 :: [8] ∧ quiet.txq = [] := by decide

/-- The lengths 0, 3 (one below the depth) and 4 (the depth). -/
theorem witness_PushAppendsTheSample :
    quiet.rxq.length ≠ quiet.params.rxqDepthPred.val + 1 ∧
    ({ quiet with rxq := [1, 2, 3] } : State).rxq.length ≠ quiet.params.rxqDepthPred.val + 1 ∧
    ({ quiet with rxq := [1, 2, 3, 4] } : State).rxq.length = quiet.params.rxqDepthPred.val + 1 := by decide

theorem witness_ResolveFollowsTheTable : Drive.d0 ≠ .z ∧ Drive.d1 ≠ .z := by decide

/-- The idle map and both values of the enable; the reads have no more hypotheses. -/
theorem witness_CtrlReadGivesTheEnable :
    (mapping .a 5 0).mapBusy ≠ none ∧ quiet.mapBusy = none ∧ ({ quiet with seqEn := false } : State).mapBusy = none := by
  decide

theorem witness_CtrlWriteStartsOrIsRefused :
    (mapping .a 5 0).mapBusy ≠ none ∧ quiet.mapBusy = none ∧ quiet.seqEn = true ∧
    ({ quiet with seqEn := false } : State).mapBusy = none ∧ ({ quiet with seqEn := false } : State).seqEn = false ∧
    (2#32 ≠ 0#32 ∧ 2#32 ≠ 1#32) ∧ (0xFFFFFFFF#32 ≠ 0#32 ∧ 0xFFFFFFFF#32 ≠ 1#32) := by decide

theorem witness_StatusReadReportsTheQueues :
    (mapping .a 5 0).mapBusy ≠ none ∧ ({ quiet with txq := [1, 2, 3, 4] } : State).mapBusy = none ∧
    quiet.mapBusy = none := by decide

theorem witness_TxfWriteAppendsOrOverflows :
    (mapping .a 5 0).mapBusy ≠ none ∧
    ({ quiet with txq := [1, 2, 3] } : State).mapBusy = none ∧
    ({ quiet with txq := [1, 2, 3] } : State).txq.length ≠ quiet.params.txqDepthPred.val + 1 ∧
    ({ quiet with txq := [1, 2, 3, 4] } : State).mapBusy = none ∧
    ({ quiet with txq := [1, 2, 3, 4] } : State).txq.length = quiet.params.txqDepthPred.val + 1 := by decide

theorem witness_RxfReadRemovesTheHeadOrUnderflows :
    (mapping .a 5 0).mapBusy ≠ none ∧
    ({ quiet with rxq := [5, 7] } : State).mapBusy = none ∧ ({ quiet with rxq := [5, 7] } : State).rxq = 5 :: [7] ∧
    quiet.mapBusy = none ∧ quiet.rxq = [] := by decide

/-- A word that differs in its last bit alone, and an equal one. -/
theorem witness_PullAWriteComparesAndStarts :
    (mapping .b 5 15).mapBusy ≠ none ∧ quiet.mapBusy = none ∧ 0x80000000#32 ≠ quiet.pullA ∧ 0#32 = quiet.pullA := by
  decide

theorem witness_PullBWriteComparesAndStarts :
    (mapping .a 5 15).mapBusy ≠ none ∧ quiet.mapBusy = none ∧ 0x80000000#32 ≠ quiet.pullB ∧ 0#32 = quiet.pullB := by
  decide

theorem witness_PullReadsReturnWordsAndFlags :
    (mapping .a 5 0).mapBusy ≠ none ∧ ({ quiet with pullChg := 0b11 } : State).mapBusy = none := by decide

/-- At the first and the last index of a job. -/
theorem witness_EveryAccessHoldsWhileMapRuns :
    decodeAccess 0x1010#13 .varX 5 = .ok (.pullAWr 5) ∧ (mapping .a 5 0).mapBusy ≠ none ∧
    (mapping .b 5 15).mapBusy ≠ none := by decide

/-- Each clause at the edges of its range: widths about 32, offsets about 0x1C, every register in each direction. -/
theorem witness_BusAccessIsCheckedInOrder :
    (turnNow (hostTurn (.bus true 0x101C 32 .varX (.lit 0)) quiet) = .host ∧
      (hostTurn (.bus true 0x101C 32 .varX (.lit 0)) quiet).hostProg =
        .bus true (4 * quiet.params.blockBaseWord + 0x1C) 32 .varX (.lit 0) :: []) ∧
    (31 ≠ 32 ∧ 64 ≠ 32) ∧ (0x01 % 4 ≠ 0 ∧ 0x1F % 4 ≠ 0) ∧ (0x1C % 4 = 0 ∧ 0x1C ≤ 0x1C ∧ 0x20 % 4 = 0 ∧ 0x1C ≤ 0x20) ∧
    (0x04 ∈ [0x04, 0x0C, 0x18] ∧ 0x18 ∈ [0x04, 0x0C, 0x18]) ∧
    (0x14 % 4 = 0 ∧ 0x14 < 0x1C ∧ 0x14 ∉ [0x04, 0x0C, 0x18]) ∧ (0x18 % 4 = 0 ∧ 0x18 < 0x1C ∧ 0x18 ≠ 0x08) ∧
    quiet.mapBusy = none ∧ (hostTurn (.bus true 0x1014 32 .varX (.lit 0)) (mapping .a 5 0)).mapBusy ≠ none := by decide

theorem witness_RefusedAccessChangesNothingElse :
    turnNow (hostTurn (.access 0x1004#13 .varX (.var .varC)) quiet) = .host ∧
    (hostTurn (.access 0x1004#13 .varX (.var .varC)) quiet).hostProg = .access 0x1004#13 .varX (.var .varC) :: [] ∧
    decodeAccess 0x1004#13 .varX (getVal (.var .varC) quiet) = .error .writeReadOnly := by decide

/-- The first and the last step index. -/
theorem witness_SeqStepRunsTheDecodedWord :
    turnNow (seqTurn quiet) = .seq ∧ (seqTurn quiet).seqEn = true ∧ (seqTurn quiet).refused = false ∧
    (seqTurn quiet).seqProg[(seqTurn quiet).seqPc.toNat]? = some 0x80A0#16 ∧ decodeMicro 0x80A0#16 = .ok .pull ∧
    (seqTurn { quiet with seqPc := 5 }).seqProg[(seqTurn { quiet with seqPc := 5 }).seqPc.toNat]? = some 0x8020#16 ∧
    decodeMicro 0x8020#16 = .ok .push := by decide

theorem witness_SeqWithoutAStepOrAnAdmittedWord :
    turnNow (seqTurn { quiet with seqEn := false }) = .seq ∧ (seqTurn { quiet with seqEn := false }).seqEn = false ∧
    (seqTurn { quiet with refused := true }).refused = true ∧
    (seqTurn { quiet with seqProg := microprogram.set 0 0x80A1#16 }).seqProg[quiet.seqPc.toNat]? = some 0x80A1#16 ∧
    0x80A1#16 ∉ [0x80A0#16, 0x6080#16, 0x6000#16, 0x4000#16, 0x8020#16] := by decide

theorem witness_HostStepRunsTheDecodedAccess :
    turnNow (hostTurn (wrTxf (.lit 5)) quiet) = .host ∧
    (hostTurn (wrTxf (.lit 5)) quiet).hostProg = .access 0x1008#13 .varX (.lit 5) :: [] ∧
    decodeAccess 0x1008#13 .varX (getVal (.lit 5) quiet) = .ok (.txfWr 5) ∧
    (hostTurn (wrTxf (.lit 5)) quiet).mapBusy = none ∧
    (hostTurn (wrTxf (.lit 5)) (mapping .a 5 3)).mapBusy ≠ none := by decide

/-- Mapped indices 0 and 15, the unmapped index 7, and MAP idle. -/
theorem witness_MapStepVisitsOneIndex :
    turnNow (mapping .a 5 15) = .map ∧ (mapping .a 5 15).mapBusy = some ⟨.a, 5, 15⟩ ∧
    groupPin .a 15 = some 15 ∧ groupPin .b 0 = some 16 ∧ groupPin .b 7 = none ∧ (0 : Pin) ≠ 15 ∧
    turnNow { quiet with sched := [.map] } = .map ∧ ({ quiet with sched := [.map] } : State).mapBusy = none := by decide

/-- A change of pin 0 alone, and one that gives pin 0 the drive it has. -/
theorem witness_EnvChangesDriveAndLevelsOnly :
    turnNow { quiet with sched := [.env (.drive ((Vector.replicate 26 none).set 0 (some .d1)))] } =
      .env (.drive ((Vector.replicate 26 none).set 0 (some .d1))) ∧
    ((Vector.replicate 26 (none : Option Drive)).set 0 (some .d1))[(0 : Pin)] = some .d1 ∧
    ((Vector.replicate 26 (none : Option Drive)).set 0 (some .d1))[(25 : Pin)] = none ∧
    (drivenExt ((Vector.replicate 26 none).set 0 (some .d1)) quiet)[(0 : Pin)] ≠ quiet.ext[(0 : Pin)] ∧
    (drivenExt ((Vector.replicate 26 none).set 0 (some .z)) quiet)[(0 : Pin)] = quiet.ext[(0 : Pin)] := by decide

theorem witness_AdmittedWordsAreTheEncodings :
    decodeMicro 0x4000#16 = .ok .inPins ∧ decodeAccess 0x0018#13 .varC 9 = .ok (.pullChgRd .varC) := by decide

theorem witness_MasksAreThePinsAndFields :
    groupPin .a 0 = some 0 ∧ groupPin .a 15 = some 15 ∧ groupPin .b 6 = some 22 ∧ groupPin .b 12 = some 25 ∧
    (15 : Fin 16).val = (15 : Pin).val ∧ (0 : Fin 16).val = physPin 16 - 16 ∧ (6 : Fin 16).val = physPin 22 - 16 ∧
    (10 : Fin 16).val = physPin 23 - 16 ∧ (12 : Fin 16).val = physPin 25 - 16 := by decide

theorem quiet_blockInv : BlockInv quiet := by
  refine ⟨by decide, by decide, by decide, rfl, by decide, by decide, by decide, fun _ _ => ?_, fun _ h => ?_⟩
  · simp [quiet, State.reset]
  · simp [quiet, State.reset] at h

/-- A block in a reconfiguration of Group A, its pads already at the modes the word gives them. -/
def reconfiguring : State :=
  { mapping .a 0xAAAAAAAA 3 with pullA := 0xAAAAAAAA, pullChg := 0b01 }

theorem reconfiguring_blockInv : BlockInv reconfiguring := by
  refine ⟨by decide, by decide, by decide, rfl, by decide, by decide, by decide, fun _ _ => ?_, fun job h => ?_⟩
  · simp [reconfiguring, mapping, quiet, State.reset]
  · cases h
    decide

theorem witness_StepKeepsBlockInv : BlockInv reconfiguring ∧ ∃ t, step reconfiguring = .next t :=
  ⟨reconfiguring_blockInv, _, rfl⟩

theorem witness_StepKeepsPadsFollowShadow :
    BlockInv reconfiguring ∧ PadsFollowShadow reconfiguring ∧ ∃ t, step reconfiguring = .next t := by
  refine ⟨reconfiguring_blockInv, fun g i k hf hg _ => ?_, _, rfl⟩
  cases g with
  | a =>
    have hi : ∀ i : Fin 16, decodePull (pullCode 0xAAAAAAAA#32 i) = .down := by decide
    have hp : ∀ k : Pin, reconfiguring.padPull[k] = .down := by decide
    rw [hp k]
    exact (hi i).symm
  | b => exact absurd hf (by decide)

/-- The reference loop with a pair sent, sampled and not yet pushed. -/
def sampled : State :=
  { quiet with
    hostProg := exchange.drop 2
    seqPc := 5
    pindir := 0xF
    pinout := 0x5
    lsDirection := 0xF
    lsOutput := 0x5
    isr := 0x5
    sched := [.seq] }

theorem sampled_loopInv : LoopInv sampled :=
  ⟨⟨rfl, rfl⟩, rfl, .inr ⟨rfl, .inr (.inr (.inl ⟨rfl, rfl, .inl ⟨rfl, .inr (.inr (.inr (.inr ⟨.inr rfl, rfl, rfl, rfl⟩)))⟩⟩))⟩⟩

theorem witness_StepKeepsLoopInv : LoopInv sampled := sampled_loopInv

/-- At the top of an iteration, and with a reconfiguration running. -/
theorem witness_LoopRunsKeepQueuesShort :
    (LoopInv quiet ∧ quiet.hostProg = []) ∧
    LoopInv { reconfiguring with hostProg := wrPullB (.lit 0) :: exchange } ∧ reconfiguring.mapBusy ≠ none :=
  ⟨⟨⟨⟨rfl, rfl⟩, rfl, .inr ⟨rfl, .inl ⟨.inl ⟨rfl, .inl rfl⟩, rfl, rfl, rfl⟩⟩⟩, rfl⟩,
    ⟨⟨rfl, rfl⟩, rfl, .inr ⟨rfl, .inl ⟨.inr (.inl ⟨0, rfl⟩), rfl, rfl, rfl⟩⟩⟩, by decide⟩

theorem sampled_readbackInv : ReadbackInv sampled := by
  refine ⟨by unfold Undriven; decide, fun _ => by unfold ReadsBack; decide, fun w h => ?_, fun h => ?_⟩
  · exact absurd h (by simp [sampled, quiet, State.reset])
  · exact absurd h (by decide)

theorem witness_LoopSamplesReadBackTheirPair :
    LoopInv sampled ∧ ReadbackInv sampled ∧ (∀ change, turnNow sampled ≠ .env (.drive change)) ∧
    ∃ t, step sampled = .next t :=
  ⟨sampled_loopInv, sampled_readbackInv, fun _ h => (by cases h), _, rfl⟩

/-- Steps of each agent that move a queue or nothing. -/
theorem witness_QueuesAreFifo :
    nextHas (step (seqTurn { quiet with txq := [7, 8] })) (fun t => t.osr == 7 && t.txq == [8]) = true ∧
    nextHas (step (hostTurn (wrTxf (.lit 5)) { quiet with txq := [7] })) (·.txq == [7, 5]) = true ∧
    nextHas (step sampled) (·.rxq == [5]) = true ∧
    nextHas (step (hostTurn (rdRxf .varX) { quiet with rxq := [3, 4] })) (·.rxq == [4]) = true := by decide

theorem witness_EachAgentWritesItsOwn :
    (∃ t, step sampled = .next t) ∧ turnNow sampled ≠ .map ∧ turnNow sampled ≠ .host ∧
    (∀ e, turnNow sampled ≠ .env e) ∧ (∃ t, step reconfiguring = .next t) ∧ turnNow reconfiguring ≠ .seq ∧
    (∃ t, step (hostTurn .poll quiet) = .next t) ∧ turnNow (hostTurn .poll quiet) = .host :=
  ⟨⟨_, rfl⟩, by decide, by decide, fun _ h => (by cases h), ⟨_, rfl⟩, by decide, ⟨_, rfl⟩, rfl⟩

theorem witness_MarksStayAndProgramIsFixed :
    (∃ t, step { sampled with refused := true, reasons := [.seqStop], faults := [.rxUnderflow] } = .next t) ∧
    sampled.seqEn = true :=
  ⟨⟨_, rfl⟩, rfl⟩

/-- A MAP turn at the indices 3 and 15, and a SEQ turn. -/
theorem witness_OnlyMapAdvancesAJob :
    reconfiguring.mapBusy = some ⟨.a, 0xAAAAAAAA, 3⟩ ∧ (∃ t, step reconfiguring = .next t) ∧
    turnNow reconfiguring = .map ∧ (mapping .b 5 15).mapBusy = some ⟨.b, 5, 15⟩ ∧
    (∃ t, step (mapping .b 5 15) = .next t) ∧ (∃ t, step (seqTurn reconfiguring) = .next t) ∧
    turnNow (seqTurn reconfiguring) ≠ .map :=
  ⟨rfl, ⟨_, rfl⟩, rfl, rfl, ⟨_, rfl⟩, ⟨_, rfl⟩, by decide⟩

theorem witness_RoomAndSamplesStayForHost :
    (∃ t, step (seqTurn { quiet with txq := [1, 2, 3], rxq := [4] }) = .next t) ∧
    turnNow (seqTurn quiet) ≠ .host ∧ [(1 : Word), 2, 3].length < txqDepth quiet ∧ [(4 : Word)] ≠ [] :=
  ⟨⟨_, rfl⟩, by decide, by decide, by decide⟩

theorem witness_NoStepStopsInsideTheBlock : BlockInv quiet := quiet_blockInv

/-- The quiet block with a pair in TXQ and one place left in RXQ. -/
theorem witness_OnePassAppliesThePairAndSamples :
    ({ quiet with sched := List.replicate 6 .seq, txq := [0xF, 5, 9], rxq := [1, 2, 3] } : State).sched =
      List.replicate 6 .seq ++ [] ∧
    quiet.seqEn = true ∧ quiet.refused = false ∧ quiet.seqProg = microprogram ∧ quiet.seqPc = 0 ∧
    ({ quiet with txq := [0xF, 5, 9] } : State).txq = 0xF :: 5 :: [9] ∧
    [(1 : Word), 2, 3].length < rxqDepth quiet := by decide

theorem witness_LoopbackSampleUnderTheMask :
    ({ quiet with sched := List.replicate 6 .seq, txq := [0xFFFFFFFF, 0xAAAAAAAA] } : State).sched =
      List.replicate 6 .seq ++ [] ∧
    ({ quiet with txq := [0xFFFFFFFF, 0xAAAAAAAA] } : State).txq = 0xFFFFFFFF#32 :: 0xAAAAAAAA#32 :: [] ∧
    quiet.seqEn = true ∧ quiet.refused = false ∧ quiet.seqProg = microprogram ∧ quiet.seqPc = 0 ∧ quiet.rxq = [] ∧
    Undriven quiet :=
  ⟨rfl, rfl, rfl, rfl, rfl, rfl, rfl, by unfold Undriven; decide⟩

/-- A pin of the group and a pin outside it. -/
theorem witness_SixteenMapStepsApplyTheWord :
    ({ mapping .b 0x03900000 0 with sched := List.replicate 16 .map } : State).sched = List.replicate 16 .map ++ [] ∧
    (mapping .b 0x03900000 0).mapBusy = some ⟨.b, 0x03900000, 0⟩ ∧ groupPin .b 12 = some 25 ∧
    (∀ i, groupPin .b i ≠ some 15) := by decide

/-- Two words that differ in every unmapped bit. -/
theorem witness_UnmappedFieldsReachNoPad :
    (mapping .b 0x03F03FFF 0).mapBusy = some ⟨.b, 0x03F03FFF, 0⟩ ∧
    (mapping .b 0xFFFFFFFF 0).mapBusy = some ⟨.b, 0xFFFFFFFF, 0⟩ ∧
    (mapping .b 0x03F03FFF 0).padPull = (mapping .b 0xFFFFFFFF 0).padPull ∧
    0x03F03FFF#32 &&& groupBMask = 0xFFFFFFFF#32 &&& groupBMask ∧
    (∃ t, Host.Core.run core 16 { mapping .b 0x03F03FFF 0 with sched := List.replicate 16 .map ++ [] } = .next t) ∧
    (∃ t, Host.Core.run core 16 { mapping .b 0xFFFFFFFF 0 with sched := List.replicate 16 .map ++ [] } = .next t) :=
  ⟨rfl, rfl, rfl, by decide, ⟨_, rfl⟩, ⟨_, rfl⟩⟩

/-- A SEQ turn among the sixteen of MAP; and a good block at its loop with a reconfiguration running. -/
theorem witness_StartedReconfigurationEnds :
    (BlockInv reconfiguring ∧ HostStaysInside reconfiguring ∧ reconfiguring.mapBusy ≠ none) ∧
    ({ mapping .a 5 0 with sched := .seq :: List.replicate 16 .map ++ [] } : State).mapBusy ≠ none ∧
    16 ≤ (Turn.seq :: List.replicate 16 .map).count .map ∧
    (∃ t, Host.Core.run core 17 { mapping .a 5 0 with sched := .seq :: List.replicate 16 .map ++ [] } = .next t) :=
  ⟨⟨reconfiguring_blockInv, fun _ _ _ _ _ h => (by cases h), by decide⟩, by decide, by decide, ⟨_, rfl⟩⟩

/-- TXQ full and not full, RXQ empty and not, MAP running and idle. -/
theorem witness_SendAndRecvHoldOrComplete :
    turnNow (hostTurn (.send (.lit 1)) quiet) = .host ∧
    (hostTurn (.send (.lit 1)) quiet).hostProg = .send (.lit 1) :: [] ∧
    [(1 : Word), 2, 3, 4].length = txqDepth quiet ∧ [(1 : Word), 2, 3].length ≠ txqDepth quiet ∧
    (hostTurn (.send (.lit 1)) (mapping .a 5 0)).mapBusy ≠ none ∧ quiet.mapBusy = none ∧
    (hostTurn (.recv .lsInput) quiet).hostProg = .recv .lsInput :: [] ∧ quiet.rxq = [] ∧
    (hostTurn (.recv .lsInput) { quiet with rxq := [5, 6] }).rxq = 5 :: [6] := by decide

/-- Two HOST turns at the expansions of `send x` and of `recv`, with room and with a sample; the poll with its bit 1, with
its bit 0, and while MAP runs. -/
theorem witness_SendAndRecvExpansionsAgree :
    turnNow { quiet with sched := [.host, .host] } = .host ∧
    turnNow (tookTurn { quiet with sched := [.host, .host] }) = .host ∧ quiet.mapBusy = none ∧
    ({ quiet with hostProg := expandSend (.var .varX) } : State).hostProg = expandSend (.var .varX) ++ [] ∧
    [(1 : Word), 2, 3].length < txqDepth quiet ∧
    ({ quiet with hostProg := expandRecv .lsInput } : State).hostProg = expandRecv .lsInput ++ [] ∧
    ({ quiet with rxq := [5, 6] } : State).rxq = 5 :: [6] ∧
    (hostTurn (.waitStatus 3) quiet).hostProg = .waitStatus 3 :: [] ∧
    (statusWord (hostTurn (.waitStatus 3) quiet)).getLsbD 3 = true ∧
    (statusWord (hostTurn (.waitStatus 0) quiet)).getLsbD 0 = false ∧
    (hostTurn (.waitStatus 0) (mapping .a 5 0)).mapBusy ≠ none := by decide

/-- The program P4 once SEQ waits at step 2. -/
theorem witness_HalfAPairHangs :
    ({ hostTurn (.recv .varX) quiet with seqPc := 2, sched := [.seq, .host, .map] } : State).sched =
      [.seq, .host, .map] ++ [] ∧
    (∀ turn ∈ [Turn.seq, .host, .map], ∀ e, turn ≠ .env e) ∧
    (hostTurn (.recv .varX) quiet).hostProg = .recv .varX :: [] ∧ quiet.mapBusy = none ∧ quiet.rxq = [] ∧
    quiet.txq = [] ∧ quiet.seqProg = microprogram ∧ ({ quiet with seqPc := 2 } : State).seqPc = 2 :=
  ⟨rfl, by simp, rfl, rfl, rfl, rfl, rfl, rfl⟩

/-- One word in a queue, and one place left. -/
theorem witness_QueueStepsCommute :
    quiet.seqEn = true ∧ quiet.refused = false ∧ quiet.mapBusy = none ∧
    quiet.seqProg[quiet.seqPc.toNat]? = some 0x80A0#16 ∧ ({ quiet with txq := [1, 2, 3] } : State).txq = 1 :: [2, 3] ∧
    [(1 : Word), 2, 3].length < txqDepth quiet ∧
    ({ quiet with hostProg := [wrTxf (.lit 5)] } : State).hostProg = wrTxf (.lit 5) :: [] ∧
    quiet.seqProg[(5#3).toNat]? = some 0x8020#16 ∧ ({ quiet with rxq := [1, 2, 3] } : State).rxq = 1 :: [2, 3] ∧
    [(1 : Word), 2, 3].length < rxqDepth quiet ∧
    ({ quiet with hostProg := [rdRxf .varX] } : State).hostProg = rdRxf .varX :: [] := by decide

theorem witness_BitsOutsideThePinSetDriveNothing :
    0xE3800000#32 &&& seqMask = quiet.pindir &&& seqMask ∧ 0x00800000#32 &&& seqMask = quiet.pinout &&& seqMask := by
  decide

theorem witness_PullActsOnUndrivenInputsOnly :
    ({ quiet with pindir := 1 } : State).pindir.getLsbD (physPin 0) = true ∧
    ({ quiet with ext := Vector.replicate 26 .d0 } : State).ext[(25 : Pin)] ≠ .z := by decide

/-- No packet, packets of 15, 16 and 17 bytes, and the arrival of one. -/
theorem witness_ShortPacketIsNoReport :
    turnNow (hostTurn .tryPullOutput quiet) = .host ∧
    (hostTurn .tryPullOutput quiet).hostProg = .tryPullOutput :: [] ∧ (hostTurn .tryPullOutput quiet).usbOut = none ∧
    ({ quiet with usbOut := some (List.replicate 15 0) } : State).usbOut = some (List.replicate 15 0) ∧
    (List.replicate 15 (0 : Byte)).length < 16 ∧ 16 ≤ (List.replicate 16 (0 : Byte)).length ∧
    16 ≤ (List.replicate 17 (0 : Byte)).length ∧
    turnNow { quiet with sched := [.env (.deliver [1, 2])] } = .env (.deliver [1, 2]) := by decide

theorem witness_ReportIsAppliedWhole :
    turnNow (hostTurn (.applyReport (Vector.replicate 16 7)) quiet) = .host ∧
    (hostTurn (.applyReport (Vector.replicate 16 7)) quiet).hostProg = .applyReport (Vector.replicate 16 7) :: [] := by
  decide

/-- `push_input`, a poll, the top of the loop, and a fetch. -/
theorem witness_InputReportNewestWins :
    (turnNow (hostTurn .pushInput quiet) = .host ∧ (hostTurn .pushInput quiet).hostProg = .pushInput :: []) ∧
    (turnNow (hostTurn .poll quiet) = .host ∧ (hostTurn .poll quiet).hostProg = .poll :: []) ∧
    (turnNow { quiet with sched := [.host] } = .host ∧ quiet.hostProg = []) ∧
    turnNow { quiet with sched := [.env .fetch] } = .env .fetch := by decide

/-- A decided turn, no decided turn, and a good block for each agent. -/
theorem witness_TurnsAreFair :
    (seqTurn quiet).sched = .seq :: [] ∧ quiet.sched = [] ∧ BlockInv quiet ∧ HostStaysInside quiet ∧
    Turn.seq ∈ [Turn.seq, .map, .host] ∧ Turn.host ∈ [Turn.seq, .map, .host] :=
  ⟨rfl, rfl, quiet_blockInv, fun _ _ _ _ _ h => (by cases h), by decide, by decide⟩

theorem witness_LoopKeepsIterating : LoopInv sampled := sampled_loopInv

end Sys2Proof.Tests
end

