-- ==== Sys2Proof/Proofs/Scope.lean ====
section
/-! The pins of the PinSet, the four masks and the maps of the two groups (spec/00_scope.md R11, spec/10_state.md R41,
spec/42_pull_mapper.md R211). Everything is read off `pinAt`: it is the inverse of `physPin`, `seqMask` is its domain,
and a group's map is `pinAt` at the mapped indices. -/

namespace Sys2Proof.Machine

/-! ### The numbering of the pins -/

theorem physPin_eq_val {k : Pin} (h : k.val ≤ 22) : physPin k = k.val :=
  if_pos (by omega)

theorem physPin_eq_val_add_three {k : Pin} (h : 23 ≤ k.val) : physPin k = k.val + 3 :=
  if_neg (by omega)

theorem pinAt_isSome_iff (p : Nat) : (pinAt p).isSome = true ↔ p ≤ 22 ∨ (26 ≤ p ∧ p ≤ 28) := by
  unfold pinAt
  split
  · simp; omega
  · split <;> simp <;> omega

/-- `pinAt` and `physPin` are inverse to each other (R41). -/
theorem pinAt_eq_some_iff {p : Nat} {k : Pin} : pinAt p = some k ↔ physPin k = p := by
  constructor
  · intro h
    unfold pinAt at h
    split at h
    · cases h
      exact physPin_eq_val (by dsimp only; omega)
    · split at h
      · cases h
        rw [physPin_eq_val_add_three (by dsimp only; omega)]
        dsimp only
        omega
      · cases h
  · rintro rfl
    exact pinAt_physPin k

theorem pinAt_isSome_iff_exists_physPin (p : Nat) : (pinAt p).isSome = true ↔ ∃ k : Pin, physPin k = p := by
  simp only [Option.isSome_iff_exists, pinAt_eq_some_iff]

/-! ### The bits of the masks -/

/-- A word's bits agree with a set of positions below 32 once they do so at the 32 positions of the word. -/
theorem getLsbD_iff_of_forall_lt {w : Word} {P : Nat → Prop} (hlow : ∀ p : Fin 32, w.getLsbD p.val = true ↔ P p.val)
    (hP : ∀ p, P p → p < 32) (p : Nat) : w.getLsbD p = true ↔ P p := by
  by_cases hp : p < 32
  · exact hlow ⟨p, hp⟩
  · rw [BitVec.getLsbD_of_ge w p (by omega)]
    exact ⟨nofun, fun h => absurd (hP p h) hp⟩

theorem seqMask_getLsbD_iff (p : Nat) : seqMask.getLsbD p = true ↔ p ≤ 22 ∨ (26 ≤ p ∧ p ≤ 28) :=
  getLsbD_iff_of_forall_lt (P := fun p => p ≤ 22 ∨ (26 ≤ p ∧ p ≤ 28)) (by decide) (fun _ _ => by omega) p

theorem inputMeaningful_getLsbD_iff (p : Nat) : inputMeaningful.getLsbD p = true ↔ p ≤ 29 :=
  getLsbD_iff_of_forall_lt (P := (· ≤ 29)) (by decide) (fun _ _ => by omega) p

/-- Field `i` of the Group A mask is full: every index of Group A is mapped. -/
theorem groupAMask_field (i : Fin 16) :
    groupAMask.extractLsb' (2 * i.val) 2 = if mapped .a i = true then 0b11#2 else 0b00#2 := by
  revert i; decide

theorem groupBMask_field (i : Fin 16) :
    groupBMask.extractLsb' (2 * i.val) 2 = if mapped .b i = true then 0b11#2 else 0b00#2 := by
  revert i; decide

theorem pullCode_getLsbD (w : Word) (i : Fin 16) {b : Nat} (hb : b < 2) :
    (pullCode w i).getLsbD b = w.getLsbD (2 * i.val + b) := by
  simp [pullCode, hb]

/-! ### The maps of the groups -/

theorem mapped_b_iff (i : Fin 16) : mapped .b i = true ↔ i.val ≤ 6 ∨ (10 ≤ i.val ∧ i.val ≤ 12) := by
  simp [mapped]

/-- The pin of an index is the one its physical number names, and a mapped index has one (R211). -/
theorem groupPin_eq_some_iff {g : Group} {i : Fin 16} {k : Pin} :
    groupPin g i = some k ↔ mapped g i = true ∧ physPin k = groupPhys g i := by
  simp [groupPin, pinAt_eq_some_iff]

/-- The physical number of a mapped index is one of the PinSet's, so the pin exists. -/
theorem groupPin_isSome (g : Group) (i : Fin 16) : (groupPin g i).isSome = mapped g i := by
  have hpin : mapped g i = true → (pinAt (groupPhys g i)).isSome = true := by
    rw [pinAt_isSome_iff]
    cases g with
    | a => intro _; dsimp only [groupPhys]; omega
    | b => rw [mapped_b_iff]; dsimp only [groupPhys]; omega
  cases hm : mapped g i with
  | false => simp [groupPin, hm]
  | true => simp [groupPin, hm, hpin hm]

/-- A pin of ordinal at most 15 is at the Group A index of the same number (R41, R211). -/
theorem groupPin_a_eq_some {k : Pin} {i : Fin 16} (hk : k.val ≤ 15) (hi : i.val = k.val) : groupPin .a i = some k :=
  groupPin_eq_some_iff.mpr ⟨rfl, (physPin_eq_val (by omega)).trans hi.symm⟩

/-- A pin of ordinal 16 or more is at the Group B index of its physical number less 16 (R41, R211). -/
theorem groupPin_b_eq_some {k : Pin} {i : Fin 16} (hk : 16 ≤ k.val) (hi : i.val = physPin k - 16) :
    groupPin .b i = some k := by
  rw [groupPin_eq_some_iff, mapped_b_iff]
  dsimp only [groupPhys]
  rcases Nat.lt_or_ge k.val 23 with hlow | hhigh
  · rw [physPin_eq_val (by omega)] at hi ⊢
    omega
  · rw [physPin_eq_val_add_three hhigh] at hi ⊢
    omega

theorem exists_groupPin_eq_some (k : Pin) : ∃ (g : Group) (i : Fin 16), groupPin g i = some k := by
  rcases Nat.lt_or_ge 15 k.val with hb | ha
  · have hi : physPin k - 16 < 16 := by have := physPin_lt k; omega
    exact ⟨.b, ⟨physPin k - 16, hi⟩, groupPin_b_eq_some hb rfl⟩
  · exact ⟨.a, ⟨k.val, by omega⟩, groupPin_a_eq_some ha rfl⟩

/-- Every pin has exactly one group and index (R211). -/
theorem exists_unique_groupPin (k : Pin) : ∃ (g : Group) (i : Fin 16), groupPin g i = some k ∧
    ∀ (g' : Group) (i' : Fin 16), groupPin g' i' = some k → g' = g ∧ i' = i := by
  obtain ⟨g, i, h⟩ := exists_groupPin_eq_some k
  exact ⟨g, i, h, fun g' i' h' => groupPin_injective g' g i' i (by rw [h']; rfl) (h'.trans h.symm)⟩

end Sys2Proof.Machine

namespace Sys2Proof.Proofs

open Sys2Proof.Machine

/-- Settles O27: `pinAt` inverts the numbering of the pins, and the masks and the maps of the groups are its domain. -/
theorem masksAreThePinsAndFields : Obligations.MasksAreThePinsAndFields := by
  refine ⟨⟨rfl, rfl, rfl, rfl⟩, fun p => ⟨?seqPins, seqMask_getLsbD_iff p, inputMeaningful_getLsbD_iff p⟩,
    fun i => ⟨?fieldA, ?fieldB⟩, fun w i _ hb => pullCode_getLsbD w i hb,
    fun k => ⟨physPin_eq_val, physPin_eq_val_add_three, fun _ => groupPin_a_eq_some, fun _ => groupPin_b_eq_some⟩,
    groupPin_isSome .a, fun i => ?mappedB, fun g i k h => ?pinOf, exists_unique_groupPin⟩
  case seqPins => rw [seqMask_getLsbD_iff, ← pinAt_isSome_iff, pinAt_isSome_iff_exists_physPin]
  case fieldA => rw [groupPin_isSome, groupAMask_field]
  case fieldB => rw [groupPin_isSome, groupBMask_field]
  case mappedB => rw [groupPin_isSome, mapped_b_iff]
  case pinOf =>
    obtain ⟨-, hpin⟩ := groupPin_eq_some_iff.mp h
    cases g <;> exact hpin

end Sys2Proof.Proofs
end

section
/-! The block as it leaves reset (spec/10_state.md R63): the three per-pin elements, and STATUS (R53), which is fixed
by the two empty queues and the idle pull mapper alone, at any depth. -/

namespace Sys2Proof.Machine

/-! ### The per-pin elements at reset -/

@[simp] theorem reset_padPull_getElem (k : Pin) : State.reset.padPull[k] = Config.padPullReset k :=
  Vector.getElem_ofFn k.isLt

@[simp] theorem reset_level_getElem (k : Pin) : State.reset.level[k] = Config.levelReset k :=
  Vector.getElem_ofFn k.isLt

@[simp] theorem reset_ext_getElem (k : Pin) : State.reset.ext[k] = Config.extReset k :=
  Vector.getElem_ofFn k.isLt

/-! ### STATUS of an idle block -/

section

variable {s : State}

/-- A queue's depth is at least one (R10), so an empty TXQ is not full. -/
theorem txFull_eq_false_of_txq_eq_nil (h : s.txq = []) : txFull s = false := by
  simp [txFull, txqDepth, h]

theorem rxFull_eq_false_of_rxq_eq_nil (h : s.rxq = []) : rxFull s = false := by
  simp [rxFull, rxqDepth, h]

/-- With both queues empty and MAP idle, STATUS has TX_EMPTY and RX_EMPTY set and nothing else (R53). -/
theorem statusWord_eq_of_queues_empty (htx : s.txq = []) (hrx : s.rxq = []) (hmap : s.mapBusy = none) :
    statusWord s = 0x0000000A#32 := by
  simp only [statusWord, htx, hrx, mapActive_eq_false.2 hmap, txFull_eq_false_of_txq_eq_nil htx,
    rxFull_eq_false_of_rxq_eq_nil hrx]
  decide

end

end Sys2Proof.Machine

namespace Sys2Proof.Proofs

open Sys2Proof.Machine

/-- Settles O54: every single element is a field of the reset state, the per-pin elements are read pin by pin, and
STATUS is that of an idle block. -/
theorem resetLeavesTheGivenValues : Obligations.ResetLeavesTheGivenValues := by
  have hpins (k : Pin) : State.reset.padPull[k] = Config.padPullReset k ∧
      State.reset.level[k] = Config.levelReset k ∧ State.reset.ext[k] = Config.extReset k :=
    ⟨reset_padPull_getElem k, reset_level_getElem k, reset_ext_getElem k⟩
  have hstatus : statusWord State.reset = 0x0000000A#32 := statusWord_eq_of_queues_empty rfl rfl rfl
  exact ⟨rfl, rfl, rfl, rfl, rfl, rfl, rfl, rfl, hpins, rfl, rfl, rfl, rfl, rfl, rfl, rfl, rfl, rfl, rfl, rfl, hstatus⟩

end Sys2Proof.Proofs
end

section
/-! The sequencer (spec/40_sequencer.md): the resolution of a pin's level and the words it reads (R144, R151), each
micro-operation alone (R141 to R149), and one pass of the program (R158). -/

namespace Sys2Proof.Machine

/-! ### The resolution of a level -/

section

variable (dir out out' : Bool) (e : Drive) (pull : PullMode) (held fresh fresh' : Bool)

/-- On a driven input, the pad's pull and the held level have no part in the level (R151). -/
theorem resolve_input_driven (other : PullMode) (held' : Bool) (he : e ≠ .z) :
    resolve false out e pull held fresh = resolve false out e other held' fresh := by
  cases e with
  | z => exact absurd rfl he
  | d0 | d1 => rfl

/-- A level resolved before under the same direction stands in for the level it was resolved from: only a pad that
keeps the level of an undriven input reads the held one, and there the earlier resolution changed nothing. -/
theorem resolve_held_resolve :
    resolve dir out e pull (resolve dir out' e pull held fresh') fresh = resolve dir out e pull held fresh := by
  cases dir with
  | true => rfl
  | false =>
    cases e with
    | d0 | d1 => rfl
    | z => cases pull <;> rfl

end

/-- The levels after a resolution of every pin, by the table's inputs (R151, R152). -/
theorem refreshAll_level_eq_resolve (s : State) (k : Pin) :
    (refreshAll s).level[k] =
      resolve (s.pindir.getLsbD (physPin k)) (s.pinout.getLsbD (physPin k)) s.ext[k] s.padPull[k] s.level[k]
        ((Config.draw s.draws).getLsbD (physPin k)) :=
  refreshAll_level s k

/-! ### The bits outside the PinSet -/

/-- Words that agree under `seqMask` agree at every physical pin of the PinSet (R11). -/
theorem getLsbD_physPin_eq_of_and_seqMask_eq {v w : Word} (h : v &&& seqMask = w &&& seqMask) (k : Pin) :
    v.getLsbD (physPin k) = w.getLsbD (physPin k) := by
  have hbit := congrArg (BitVec.getLsbD · (physPin k)) h
  simpa [seqMask_physPin] using hbit

/-- The six positions of a word that are no pin's (R148). -/
theorem pinAt_eq_none_of_mem : ∀ p ∈ [23, 24, 25, 29, 30, 31], pinAt p = none ∧ p < 32 := by decide

/-! ### The depth of RXQ -/

theorem rxFull_eq_true_iff {s : State} : rxFull s = true ↔ s.rxq.length = s.params.rxqDepthPred.val + 1 :=
  decide_eq_true_iff

theorem rxFull_eq_false_iff {s : State} : rxFull s = false ↔ s.rxq.length ≠ s.params.rxqDepthPred.val + 1 :=
  decide_eq_false_iff_not

/-! ### The micro-operations -/

/-- PULL with a word in TXQ takes the head (R141); `pc` is the step after it. -/
theorem exec_pull_cons {s : State} {word : Word} {rest : List Word} {pc : BitVec 3} (h : s.txq = word :: rest)
    (hpc : s.seqPc + 1 = pc) : exec .pull s = .next { s with osr := word, txq := rest, seqPc := pc } :=
  hpc ▸ execPull_cons h

/-- PUSH with room in RXQ appends the sample (R149). -/
theorem exec_push_room {s : State} (h : s.rxq.length ≠ s.params.rxqDepthPred.val + 1) :
    exec .push s = .next { s with rxq := s.rxq ++ [s.isr], isr := 0, seqPc := 0 } :=
  execPush_room (rxFull_eq_false_iff.mpr h)

/-- OUT PINDIRS applies the direction word (R143). -/
theorem exec_outPindirs (s : State) : ∃ level : PinMap Bool,
    exec .outPindirs s =
      .next { s with pindir := s.osr, osr := 0, level := level, draws := s.draws + 1, seqPc := 2 } ∧
    ∀ k : Pin, level[k] =
      resolve (s.osr.getLsbD (physPin k)) (s.pinout.getLsbD (physPin k)) s.ext[k] s.padPull[k] s.level[k]
        ((Config.draw s.draws).getLsbD (physPin k)) :=
  ⟨(refreshAll { s with pindir := s.osr, osr := 0 }).level, rfl, refreshAll_level_eq_resolve _⟩

/-- OUT PINS applies the output word (R145). -/
theorem exec_outPins (s : State) : ∃ level : PinMap Bool,
    exec .outPins s =
      .next { s with pinout := s.osr, osr := 0, level := level, draws := s.draws + 1, seqPc := 4 } ∧
    ∀ k : Pin, level[k] =
      resolve (s.pindir.getLsbD (physPin k)) (s.osr.getLsbD (physPin k)) s.ext[k] s.padPull[k] s.level[k]
        ((Config.draw s.draws).getLsbD (physPin k)) :=
  ⟨(refreshAll { s with pinout := s.osr, osr := 0 }).level, rfl, refreshAll_level_eq_resolve _⟩

/-- IN PINS samples the levels it has resolved (R147). -/
theorem exec_inPins (s : State) : ∃ level : PinMap Bool,
    exec .inPins s =
      .next { s with
        isr := sampleWord level (drawNow s), level := level, draws := s.draws + 1, seqPc := 5 } ∧
    ∀ k : Pin, level[k] =
      resolve (s.pindir.getLsbD (physPin k)) (s.pinout.getLsbD (physPin k)) s.ext[k] s.padPull[k] s.level[k]
        ((Config.draw s.draws).getLsbD (physPin k)) :=
  ⟨(refreshAll s).level, by simp [exec, execInPins], refreshAll_level_eq_resolve s⟩

/-! ### One pass of the program -/

/-- SEQ runs the fixed program: it has an enabled step (R140) and its store is the one of R103. -/
structure SeqRuns (s : State) : Prop where
  enabled : s.seqEn = true
  unrefused : s.refused = false
  prog_eq : s.seqProg = microprogram

section

variable {s : State} {later : List Turn}

/-- A SEQ turn runs the micro-operation at the step index it stands at (R140). -/
theorem SeqRuns.step_eq_exec {i : Instr} (hs : SeqRuns s) (hsched : s.sched = .seq :: later)
    (hi : microprogram[s.seqPc.toNat]?.map decodeMicro = some (.ok i)) :
    step s = exec i { s with sched := later } := by
  obtain ⟨word, hword, hdec⟩ := Option.map_eq_some_iff.mp hi
  have hfetch : s.seqProg[s.seqPc.toNat]? = some word := by rw [hs.prog_eq, hword]
  have hstep := seqStep_fetch (s := { s with sched := later }) hs.enabled hs.unrefused hfetch
  rw [hdec] at hstep
  exact (step_cons hsched).trans hstep

/-- A PULL that finds a word, and the micro-operation at the step after it. -/
theorem SeqRuns.run_pull_exec {i : Instr} {word : Word} {rest : List Word} {pc : BitVec 3} {t : State}
    (hs : SeqRuns s) (hsched : s.sched = .seq :: .seq :: later)
    (hpull : microprogram[s.seqPc.toNat]?.map decodeMicro = some (.ok .pull)) (htxq : s.txq = word :: rest)
    (hpc : s.seqPc + 1 = pc) (hi : microprogram[pc.toNat]?.map decodeMicro = some (.ok i))
    (hexec : exec i { s with sched := later, osr := word, txq := rest, seqPc := pc } = .next t) :
    Host.Core.run core 2 s = .next t := by
  have hfirst := (hs.step_eq_exec hsched hpull).trans (exec_pull_cons htxq hpc)
  have hsecond := SeqRuns.step_eq_exec (s := { s with sched := .seq :: later, osr := word, txq := rest, seqPc := pc })
    ⟨hs.enabled, hs.unrefused, hs.prog_eq⟩ rfl hi
  exact (run_succ 1 hfirst).trans (run_succ 0 (hsecond.trans hexec))

/-- The steps 0 and 1 apply the head of TXQ as the direction word (R141, R143). -/
theorem SeqRuns.run_direction {d : Word} {rest : List Word} (hs : SeqRuns s)
    (hsched : s.sched = .seq :: .seq :: later) (hpc : s.seqPc = 0) (htxq : s.txq = d :: rest) :
    ∃ level : PinMap Bool,
      Host.Core.run core 2 s = .next { s with
        sched := later, txq := rest, pindir := d, osr := 0, level := level, draws := s.draws + 1, seqPc := 2 } ∧
      ∀ k : Pin, ∃ fresh : Bool, level[k] =
        resolve (d.getLsbD (physPin k)) (s.pinout.getLsbD (physPin k)) s.ext[k] s.padPull[k] s.level[k] fresh := by
  obtain ⟨level, hexec, hlevel⟩ := exec_outPindirs { s with sched := later, osr := d, txq := rest, seqPc := 1 }
  have hrun := hs.run_pull_exec hsched (by rw [hpc]; rfl) htxq (congrArg (· + 1) hpc) rfl hexec
  exact ⟨level, hrun, fun k => ⟨_, hlevel k⟩⟩

/-- The steps 2 and 3 apply the head of TXQ as the output word (R141, R145). -/
theorem SeqRuns.run_output {o : Word} {rest : List Word} (hs : SeqRuns s)
    (hsched : s.sched = .seq :: .seq :: later) (hpc : s.seqPc = 2) (htxq : s.txq = o :: rest) :
    ∃ level : PinMap Bool,
      Host.Core.run core 2 s = .next { s with
        sched := later, txq := rest, pinout := o, osr := 0, level := level, draws := s.draws + 1, seqPc := 4 } ∧
      ∀ k : Pin, ∃ fresh : Bool, level[k] =
        resolve (s.pindir.getLsbD (physPin k)) (o.getLsbD (physPin k)) s.ext[k] s.padPull[k] s.level[k] fresh := by
  obtain ⟨level, hexec, hlevel⟩ := exec_outPins { s with sched := later, osr := o, txq := rest, seqPc := 3 }
  have hrun := hs.run_pull_exec hsched (by rw [hpc]; rfl) htxq (congrArg (· + 1) hpc) rfl hexec
  exact ⟨level, hrun, fun k => ⟨_, hlevel k⟩⟩

/-- The steps 4 and 5 append the levels, resolved afresh, to RXQ (R147, R149). -/
theorem SeqRuns.run_sample (hs : SeqRuns s) (hsched : s.sched = .seq :: .seq :: later) (hpc : s.seqPc = 4)
    (hroom : s.rxq.length < rxqDepth s) :
    ∃ level : PinMap Bool,
      Host.Core.run core 2 s = .next { s with
        sched := later, rxq := s.rxq ++ [sampleWord level (drawNow s)], isr := 0, level := level
        draws := s.draws + 1, seqPc := 0 } ∧
      ∀ k : Pin, ∃ fresh : Bool, level[k] =
        resolve (s.pindir.getLsbD (physPin k)) (s.pinout.getLsbD (physPin k)) s.ext[k] s.padPull[k] s.level[k]
          fresh := by
  obtain ⟨level, hexec, hlevel⟩ := exec_inPins { s with sched := .seq :: later }
  have hin := (hs.step_eq_exec (i := .inPins) hsched (by rw [hpc]; rfl)).trans hexec
  have hpush := (SeqRuns.step_eq_exec (s := { s with
      sched := .seq :: later, isr := sampleWord level (drawNow s), level := level, draws := s.draws + 1, seqPc := 5 })
    ⟨hs.enabled, hs.unrefused, hs.prog_eq⟩ rfl rfl).trans (exec_push_room (Nat.ne_of_lt hroom))
  exact ⟨level, (run_succ 1 hin).trans (run_succ 0 hpush), fun k => ⟨_, hlevel k⟩⟩

/-- A whole pass: the pair at the head of TXQ applied and one sample taken under it (R158). The levels of the earlier
resolutions do not show in the sample's, by `resolve_held_resolve`. -/
theorem SeqRuns.run_pass {d o : Word} {rest : List Word} (hs : SeqRuns s)
    (hsched : s.sched = List.replicate 6 .seq ++ later) (hpc : s.seqPc = 0) (htxq : s.txq = d :: o :: rest)
    (hroom : s.rxq.length < rxqDepth s) :
    ∃ (level : PinMap Bool) (sample : Word),
      Host.Core.run core 6 s = .next { s with
        sched := later, txq := rest, rxq := s.rxq ++ [sample], pindir := d, pinout := o, osr := 0, isr := 0
        level := level, draws := s.draws + 3 } ∧
      ∀ k : Pin, sample.getLsbD (physPin k) = level[k] ∧
        ∃ fresh : Bool, level[k] =
          resolve (d.getLsbD (physPin k)) (o.getLsbD (physPin k)) s.ext[k] s.padPull[k] s.level[k] fresh := by
  obtain ⟨levelD, hrunD, hlevelD⟩ := hs.run_direction hsched hpc htxq
  obtain ⟨levelO, hrunO, hlevelO⟩ :=
    SeqRuns.run_output (s := { s with
      sched := List.replicate 4 .seq ++ later, txq := o :: rest, pindir := d, osr := 0, level := levelD
      draws := s.draws + 1, seqPc := 2 }) ⟨hs.enabled, hs.unrefused, hs.prog_eq⟩ rfl rfl rfl
  obtain ⟨level, hrunS, hlevel⟩ :=
    SeqRuns.run_sample (s := { s with
      sched := .seq :: .seq :: later, txq := rest, pindir := d, pinout := o, osr := 0, level := levelO
      draws := s.draws + 2, seqPc := 4 }) ⟨hs.enabled, hs.unrefused, hs.prog_eq⟩ rfl rfl hroom
  have hrun := (run_add 2 4 hrunD).trans ((run_add 2 2 hrunO).trans hrunS)
  refine ⟨level, _, hpc ▸ hrun, fun k => ⟨sampleWord_physPin level _ k, ?_⟩⟩
  obtain ⟨freshD, hD⟩ := hlevelD k
  obtain ⟨freshO, hO⟩ := hlevelO k
  obtain ⟨fresh, hS⟩ := hlevel k
  refine ⟨fresh, ?_⟩
  dsimp only at hS hO
  rw [hS, hO, resolve_held_resolve, hD, resolve_held_resolve]

end

end Sys2Proof.Machine

namespace Sys2Proof.Proofs

open Sys2Proof.Machine

/-- Settles O1: the two cases of PULL are the two forms of TXQ. -/
theorem pullTakesTheHead : Obligations.PullTakesTheHead :=
  ⟨⟨rfl, rfl, rfl⟩, fun _ _ _ h => exec_pull_cons h rfl, fun _ h => execPull_nil h⟩

/-- Settles O2: `exec_outPindirs` names the levels that the statement reads off the next state. -/
theorem outPindirsAppliesTheWord : Obligations.OutPindirsAppliesTheWord := by
  refine ⟨⟨rfl, rfl⟩, fun s => ?_⟩
  obtain ⟨level, hexec, hlevel⟩ := exec_outPindirs s
  exact ⟨_, hexec, rfl, hlevel⟩

/-- Settles O4: a bit of the sample is a level where `pinAt` names a pin, and a draw elsewhere. -/
theorem inPinsSamplesEveryPin : Obligations.InPinsSamplesEveryPin := by
  refine ⟨⟨rfl, rfl⟩, fun s => ?_⟩
  obtain ⟨level, hexec, hlevel⟩ := exec_inPins s
  refine ⟨_, hexec, rfl, hlevel, sampleWord_physPin level _, fun p hp => ?_⟩
  obtain ⟨hnone, hlt⟩ := pinAt_eq_none_of_mem p hp
  exact sampleWord_outside level _ hnone hlt

/-- Settles O5: PUSH appends or holds as RXQ is below or at its depth. -/
theorem pushAppendsTheSample : Obligations.PushAppendsTheSample :=
  ⟨⟨rfl, rfl⟩, fun _ h => exec_push_room h, fun _ h => execPush_full (rxFull_eq_true_iff.mpr h)⟩

/-- Settles O6: each row of the table is a branch of `resolve`, and the last clause is about driven inputs. -/
theorem resolveFollowsTheTable : Obligations.ResolveFollowsTheTable := fun out e pull held fresh =>
  ⟨rfl, rfl, rfl, rfl, rfl, rfl, rfl, rfl, rfl, rfl, rfl,
    fun he other held' => resolve_input_driven out e pull held fresh other held' he⟩

/-- Settles O51: a pin reads only its own bit of each word, and that bit lies under `seqMask`. -/
theorem bitsOutsideThePinSetDriveNothing : Obligations.BitsOutsideThePinSetDriveNothing := by
  intro s d o fresh k hd ho
  simp only [resolvePin, getLsbD_physPin_eq_of_and_seqMask_eq hd, getLsbD_physPin_eq_of_and_seqMask_eq ho]

/-- Settles O42, by `SeqRuns.run_pass`: the steps of a pass, two by two. -/
theorem onePassAppliesThePairAndSamples : Obligations.OnePassAppliesThePairAndSamples := by
  intro s d o rest later hsched hen hrefused hprog hpc htxq hroom
  obtain ⟨level, sample, hrun, hsample⟩ := SeqRuns.run_pass ⟨hen, hrefused, hprog⟩ hsched hpc htxq hroom
  exact ⟨_, hrun, rfl, sample, rfl, hsample⟩

end Sys2Proof.Proofs
end

section
/-! The window's CTRL, STATUS, TXF and RXF (spec/41_channel_interface.md R180 to R186), and the blocking `send` and
`recv` made of the last two (R190, R191). -/

namespace Sys2Proof.Machine

/-! ### The words of CTRL -/

theorem zeroExtend_ofBool (b : Bool) : (BitVec.ofBool b).zeroExtend 32 = if b then 1#32 else 0#32 := by
  cases b <;> rfl

/-- The reserved bits 31:1 of CTRL are 0 in the words 0 and 1 alone (R181). -/
theorem extractLsb'_reserved_eq_zero_iff {v : Word} : v.extractLsb' 1 31 = 0 ↔ v = 0#32 ∨ v = 1#32 := by
  have hlt := v.isLt
  simp only [← BitVec.toNat_inj, BitVec.extractLsb'_toNat, BitVec.ofNat_eq_ofNat, BitVec.toNat_ofNat,
    Nat.shiftRight_eq_div_pow]
  omega

/-! ### The fields of STATUS -/

section

variable (rx tx : BitVec 8) (busy rxE rxF txE txF : Bool)

/-- The fields of STATUS above its five flags (R53). -/
theorem statusFields_extractLsb' {start len : Nat} (h : 5 ≤ start) :
    (statusFields rx tx busy rxE rxF txE txF).extractLsb' start len =
      (0#8 ++ rx ++ tx ++ 0#3).extractLsb' (start - 5) len := by
  unfold statusFields
  iterate 5 rw [BitVec.extractLsb'_append_eq_of_le (by omega)]
  simp only [Nat.sub_sub]

theorem statusFields_reserved : (statusFields rx tx busy rxE rxF txE txF).extractLsb' 5 3 = 0#3 := by
  rw [statusFields_extractLsb' _ _ _ _ _ _ _ (by decide)]
  exact BitVec.extractLsb'_append_eq_right

theorem statusFields_txLevel : (statusFields rx tx busy rxE rxF txE txF).extractLsb' 8 8 = tx := by
  rw [statusFields_extractLsb' _ _ _ _ _ _ _ (by decide), BitVec.extractLsb'_append_eq_of_le (by decide)]
  exact BitVec.extractLsb'_append_eq_right

theorem statusFields_rxLevel : (statusFields rx tx busy rxE rxF txE txF).extractLsb' 16 8 = rx := by
  rw [statusFields_extractLsb' _ _ _ _ _ _ _ (by decide)]
  iterate 2 rw [BitVec.extractLsb'_append_eq_of_le (by decide)]
  exact BitVec.extractLsb'_append_eq_right

theorem statusFields_upper : (statusFields rx tx busy rxE rxF txE txF).extractLsb' 24 8 = 0#8 := by
  rw [statusFields_extractLsb' _ _ _ _ _ _ _ (by decide)]
  iterate 2 rw [BitVec.extractLsb'_append_eq_of_le (by decide)]
  exact BitVec.extractLsb'_append_eq_left

end

/-! ### The depth of TXQ -/

theorem txFull_eq_true_iff {s : State} : txFull s = true ↔ s.txq.length = txqDepth s :=
  decide_eq_true_iff

theorem txFull_eq_false_iff {s : State} : txFull s = false ↔ s.txq.length ≠ txqDepth s :=
  decide_eq_false_iff_not

@[simp] theorem txqDepth_tookTurn (s : State) : txqDepth (tookTurn s) = txqDepth s := by
  simp [txqDepth]

/-! ### The accesses while MAP is idle -/

section

variable {s : State} {x : HostVar} {v : Word}

theorem exec_ctrlRd_idle (h : s.mapBusy = none) :
    exec (.ctrlRd x) s = .next (setVar x (if s.seqEn then 1#32 else 0#32) s) := by
  simp only [exec, execCtrlRd, whenMapIdle_idle h, zeroExtend_ofBool]

theorem exec_ctrlWr_reserved (h : s.mapBusy = none) (hzero : v ≠ 0#32) (hone : v ≠ 1#32) :
    exec (.ctrlWr v) s = .next (refuse .ctrlReservedBits s) := by
  have hbits : v.extractLsb' 1 31 ≠ 0 := fun hv => (extractLsb'_reserved_eq_zero_iff.mp hv).elim hzero hone
  simp only [exec, execCtrlWr, whenMapIdle_idle h, if_pos hbits]

theorem exec_ctrlWr_one (h : s.mapBusy = none) : exec (.ctrlWr 1#32) s = .next { s with seqEn := true } := by
  simp [exec, execCtrlWr, whenMapIdle_idle h]

theorem exec_ctrlWr_zero_stopped (h : s.mapBusy = none) (hen : s.seqEn = false) :
    exec (.ctrlWr 0#32) s = .next s := by
  simp [exec, execCtrlWr, whenMapIdle_idle h, ← hen]

theorem exec_ctrlWr_zero_started (h : s.mapBusy = none) (hen : s.seqEn = true) :
    exec (.ctrlWr 0#32) s = .next (refuse .seqStop s) := by
  simp [exec, execCtrlWr, whenMapIdle_idle h, hen]

theorem exec_statusRd_idle (h : s.mapBusy = none) : exec (.statusRd x) s = .next (setVar x (statusWord s) s) := by
  simp only [exec, execStatusRd, whenMapIdle_idle h]

theorem exec_txfWr_room (h : s.mapBusy = none) (hroom : s.txq.length ≠ txqDepth s) :
    exec (.txfWr v) s = .next { s with txq := s.txq ++ [v] } := by
  simp [exec, execTxfWr, whenMapIdle_idle h, txFull_eq_false_iff.mpr hroom]

theorem exec_txfWr_full (h : s.mapBusy = none) (hfull : s.txq.length = txqDepth s) :
    exec (.txfWr v) s = .next (raiseFault (.txOverflow v) s) := by
  simp [exec, execTxfWr, whenMapIdle_idle h, txFull_eq_true_iff.mpr hfull]

theorem exec_rxfRd_cons {word : Word} {rest : List Word} (h : s.mapBusy = none) (hrxq : s.rxq = word :: rest) :
    exec (.rxfRd x) s = .next (setVar x word { s with rxq := rest }) := by
  simp only [exec, execRxfRd, whenMapIdle_idle h, hrxq]

theorem exec_rxfRd_nil (h : s.mapBusy = none) (hrxq : s.rxq = []) :
    exec (.rxfRd x) s = .next (raiseFault .rxUnderflow s) := by
  simp only [exec, execRxfRd, whenMapIdle_idle h, hrxq]

end

/-! ### The blocking operations -/

section

variable {s : State} {rest : List HostOp}

/-- A HOST turn runs the first operation of the program. -/
theorem step_host_cons {op : HostOp} (hturn : turnNow s = .host) (hprog : s.hostProg = op :: rest) :
    step s = hostOp op rest (tookTurn s) :=
  (step_host hturn).trans (hostStep_cons ((tookTurn_hostProg s).trans hprog))

/-- Writing a HOST variable does not touch HOST's program. -/
theorem setVar_with_hostProg (x : HostVar) (word : Word) (s : State) :
    { setVar x word s with hostProg := rest } = setVar x word { s with hostProg := rest } := by
  cases x <;> rfl

/-- A `send` on a full TXQ, or while MAP runs, holds (R190, R193). -/
theorem hostOp_send_hold {v : HostVal} (h : s.mapBusy ≠ none ∨ s.txq.length = txqDepth s) :
    hostOp (.send v) rest s = .next s := by
  rw [← mapActive_eq_true, ← txFull_eq_true_iff, ← Bool.or_eq_true] at h
  exact if_pos h

/-- A `send` with room in TXQ is a write of TXF that does not overflow (R190). -/
theorem hostOp_send_room {v : HostVal} (hidle : s.mapBusy = none) (hroom : s.txq.length ≠ txqDepth s) :
    hostOp (.send v) rest s = .next { s with hostProg := rest, txq := s.txq ++ [getVal v s] } := by
  have hrun := hostRun_idle (rest := rest) hidle (exec_txfWr_room (v := getVal v s) hidle hroom)
  simpa [hostOp, mapActive_eq_false.mpr hidle, txFull_eq_false_iff.mpr hroom] using hrun

/-- A `recv` on an empty RXQ, or while MAP runs, holds (R191, R193). -/
theorem hostOp_recv_hold {x : HostVar} (h : s.mapBusy ≠ none ∨ s.rxq = []) : hostOp (.recv x) rest s = .next s := by
  rw [← mapActive_eq_true, ← List.isEmpty_iff, ← Bool.or_eq_true] at h
  exact if_pos h

/-- A `recv` with a word in RXQ is a read of RXF that does not underflow (R191). -/
theorem hostOp_recv_cons {x : HostVar} {word : Word} {more : List Word} (hidle : s.mapBusy = none)
    (hrxq : s.rxq = word :: more) :
    hostOp (.recv x) rest s = .next (setVar x word { s with hostProg := rest, rxq := more }) := by
  have hrun := hostRun_idle (rest := rest) hidle (exec_rxfRd_cons (x := x) hidle hrxq)
  rw [setVar_with_hostProg] at hrun
  simpa [hostOp, mapActive_eq_false.mpr hidle, hrxq] using hrun

end

end Sys2Proof.Machine

namespace Sys2Proof.Proofs

open Sys2Proof.Machine

/-- Settles O7: the code is decoded, a busy MAP holds every access, and an idle one lets the read run. -/
theorem ctrlReadGivesTheEnable : Obligations.CtrlReadGivesTheEnable := fun _ _ _ =>
  ⟨rfl, exec_access_busy rfl, exec_ctrlRd_idle⟩

/-- Settles O8: the words other than 0 and 1 are those with a reserved bit. -/
theorem ctrlWriteStartsOrIsRefused : Obligations.CtrlWriteStartsOrIsRefused := by
  refine fun x v s => ⟨rfl, exec_access_busy rfl, fun hidle => ⟨?one, ?stopped, ?started, exec_ctrlWr_reserved hidle⟩⟩
  case one => rintro rfl; exact exec_ctrlWr_one hidle
  case stopped => rintro rfl; exact exec_ctrlWr_zero_stopped hidle
  case started => rintro rfl; exact exec_ctrlWr_zero_started hidle

/-- Settles O9: the word is `statusWord`, read field by field. -/
theorem statusReadReportsTheQueues : Obligations.StatusReadReportsTheQueues := by
  refine fun x v s => ⟨rfl, exec_access_busy rfl, fun hidle => ⟨statusWord s, exec_statusRd_idle hidle, ?_⟩⟩
  unfold statusWord
  refine ⟨?txFull, ?txEmpty, ?rxFull, ?rxEmpty, ?busy, statusFields_reserved .., statusFields_txLevel ..,
    statusFields_rxLevel .., statusFields_upper ..⟩
  case txFull => rw [statusFields_txFull]; exact txFull_eq_true_iff
  case txEmpty => rw [statusFields_txEmpty, List.isEmpty_iff_length_eq_zero]
  case rxFull => rw [statusFields_rxFull]; exact rxFull_eq_true_iff
  case rxEmpty => rw [statusFields_rxEmpty, List.isEmpty_iff_length_eq_zero]
  case busy => rw [statusFields_busy]; exact mapActive_eq_false.mpr hidle

/-- Settles O10: TXQ has room or is at its depth. -/
theorem txfWriteAppendsOrOverflows : Obligations.TxfWriteAppendsOrOverflows := fun _ _ _ =>
  ⟨rfl, exec_access_busy rfl, exec_txfWr_room, exec_txfWr_full⟩

/-- Settles O11: the two cases are the two forms of RXQ. -/
theorem rxfReadRemovesTheHeadOrUnderflows : Obligations.RxfReadRemovesTheHeadOrUnderflows := fun _ _ _ =>
  ⟨rfl, exec_access_busy rfl, fun hidle _ _ => exec_rxfRd_cons hidle, exec_rxfRd_nil⟩

/-- Settles O47: HOST's turn runs the operation in the state with the turn used up, where the queues and MAP are as
before. -/
theorem sendAndRecvHoldOrComplete : Obligations.SendAndRecvHoldOrComplete := by
  refine fun s rest hturn => ⟨fun v hprog => ⟨fun h => ?sendHold, fun hidle hroom => ?sendRoom⟩,
    fun x hprog => ⟨fun h => ?recvHold, fun word more hidle hrxq => ?recvCons⟩⟩
  all_goals rw [step_host_cons hturn hprog]
  case sendHold => exact hostOp_send_hold (by simpa using h)
  case sendRoom => simpa using hostOp_send_room (s := tookTurn s) (by simpa using hidle) (by simpa using hroom)
  case recvHold => exact hostOp_recv_hold (by simpa using h)
  case recvCons => exact hostOp_recv_cons (by simpa using hidle) (by simpa using hrxq)

end Sys2Proof.Proofs
end

section
/-! The pull mapper (spec/42_pull_mapper.md): the codes of a pull word (R212, R213), the levels a pad's pull can reach
(R226), HOST's accesses to PULL_A, PULL_B and PULL_CHG (R214 to R218), and the MAP step (R222). -/

namespace Sys2Proof.Machine

/-! ### The codes of a pull word -/

/-- The code of an index by shift and mask (R113). -/
theorem pullCode_setWidth (w : Word) (i : Fin 16) :
    (pullCode w i).setWidth 32 = (w >>> (2 * i.val)) &&& 0b11#32 := by
  have hlt : (w.toNat >>> (2 * i.val)) % 2 ^ 2 < 2 ^ 32 := by omega
  apply BitVec.eq_of_toNat_eq
  rw [BitVec.toNat_setWidth, pullCode, BitVec.extractLsb'_toNat, BitVec.toNat_and, BitVec.toNat_ushiftRight,
    Nat.mod_eq_of_lt hlt]
  exact (Nat.and_two_pow_sub_one_eq_mod _ 2).symm

/-- A code placed at field `i` occupies the two bits of that field and no other (R213). -/
theorem placeCode_getLsbD (c : BitVec 2) (i : Fin 16) (p : Nat) :
    (placeCode c i).getLsbD p = (decide (2 * i.val ≤ p) && c.getLsbD (p - 2 * i.val)) := by
  by_cases hlow : p < 2 * i.val
  · simp [placeCode, hlow]
  · by_cases hfield : p - 2 * i.val < 2
    · have hp : p < 32 := by omega
      simp [placeCode, hp, hlow, Nat.not_lt.mp hlow]
    · simp [placeCode, BitVec.getLsbD_of_ge c _ (Nat.not_lt.mp hfield)]

/-- R213: the field of a word, read and placed back, is that field of the word. -/
theorem placeCode_pullCode_getLsbD (w : Word) (i : Fin 16) (p : Nat) :
    (placeCode (pullCode w i) i).getLsbD p =
      (decide (p = 2 * i.val ∨ p = 2 * i.val + 1) && w.getLsbD p) := by
  rw [placeCode_getLsbD]
  by_cases hfield : p = 2 * i.val ∨ p = 2 * i.val + 1
  · have hbit := pullCode_getLsbD w i (b := p - 2 * i.val) (by omega)
    have hle : 2 * i.val ≤ p := by omega
    rw [hbit, Nat.add_sub_cancel' hle, decide_eq_true hle, decide_eq_true hfield]
  · rw [decide_eq_false hfield, Bool.false_and]
    rcases Nat.lt_or_ge p (2 * i.val) with hlow | hhigh
    · rw [decide_eq_false (Nat.not_le.mpr hlow), Bool.false_and]
    · rw [BitVec.getLsbD_of_ge _ (p - 2 * i.val) (by omega), Bool.and_false]

/-! ### The reach of a pad's pull -/

/-- On an output, or a line driven from outside, the pad's pull has no part in the level (R151, R226). -/
theorem resolve_pull_irrelevant {dir : Bool} {e : Drive} (out : Bool) (pull other : PullMode) (held fresh : Bool)
    (h : dir = true ∨ e ≠ .z) : resolve dir out e pull held fresh = resolve dir out e other held fresh := by
  cases dir with
  | true => rfl
  | false => exact resolve_input_driven out e pull held fresh other held (h.resolve_left Bool.false_ne_true)

/-! ### The accesses while MAP is idle -/

section

variable {s : State} {x : HostVar} {w : Word}

theorem exec_pullAWr_changed (h : s.mapBusy = none) (hw : w ≠ s.pullA) :
    exec (.pullAWr w) s =
      .next { s with pullA := w, pullChg := s.pullChg ||| 0b01#2, mapBusy := some ⟨.a, w, 0⟩ } := by
  obtain ⟨hset, -, -, -⟩ := setFlag_eq s.pullChg
  simp only [exec, execPullAWr, whenMapIdle_idle h, changed_eq_true.mpr hw, hset, startMap, if_true]

theorem exec_pullAWr_equal (h : s.mapBusy = none) :
    exec (.pullAWr s.pullA) s = .next { s with pullChg := s.pullChg &&& 0b10#2 } := by
  obtain ⟨-, hclear, -, -⟩ := setFlag_eq s.pullChg
  simp only [exec, execPullAWr, whenMapIdle_idle h, changed_eq_false.mpr rfl, hclear, startMap, Bool.false_eq_true,
    if_false]

theorem exec_pullBWr_changed (h : s.mapBusy = none) (hw : w ≠ s.pullB) :
    exec (.pullBWr w) s =
      .next { s with pullB := w, pullChg := s.pullChg ||| 0b10#2, mapBusy := some ⟨.b, w, 0⟩ } := by
  obtain ⟨-, -, hset, -⟩ := setFlag_eq s.pullChg
  simp only [exec, execPullBWr, whenMapIdle_idle h, changed_eq_true.mpr hw, hset, startMap, if_true]

theorem exec_pullBWr_equal (h : s.mapBusy = none) :
    exec (.pullBWr s.pullB) s = .next { s with pullChg := s.pullChg &&& 0b01#2 } := by
  obtain ⟨-, -, -, hclear⟩ := setFlag_eq s.pullChg
  simp only [exec, execPullBWr, whenMapIdle_idle h, changed_eq_false.mpr rfl, hclear, startMap, Bool.false_eq_true,
    if_false]

theorem exec_pullARd_idle (h : s.mapBusy = none) : exec (.pullARd x) s = .next (setVar x s.pullA s) := by
  simp only [exec, execPullARd, whenMapIdle_idle h]

theorem exec_pullBRd_idle (h : s.mapBusy = none) : exec (.pullBRd x) s = .next (setVar x s.pullB s) := by
  simp only [exec, execPullBRd, whenMapIdle_idle h]

theorem exec_pullChgRd_idle (h : s.mapBusy = none) :
    exec (.pullChgRd x) s = .next (setVar x (BitVec.ofNat 32 s.pullChg.toNat) s) := by
  simp only [exec, execPullChgRd, whenMapIdle_idle h, BitVec.zeroExtend, BitVec.ofNat_toNat]

end

/-! ### The MAP step -/

section

variable {job : MapJob} {s : State}

/-- One index changes nothing but pads, levels and the count of draws. -/
theorem applyIndex_frame (job : MapJob) (s : State) :
    applyIndex job s = { s with
      padPull := (applyIndex job s).padPull, level := (applyIndex job s).level
      draws := (applyIndex job s).draws } := by
  unfold applyIndex
  split <;> rfl

/-- The pin of the index is resolved under the pad it has just been given (R222). -/
theorem applyIndex_level_same {k : Pin} (h : groupPin job.group job.index = some k) :
    (applyIndex job s).level[k] =
      resolve (s.pindir.getLsbD (physPin k)) (s.pinout.getLsbD (physPin k)) s.ext[k]
        (decodePull (pullCode job.word job.index)) s.level[k] ((Config.draw s.draws).getLsbD (physPin k)) := by
  simp only [applyIndex, h]
  rw [refreshPin_level_same]
  simp [resolvePin, drawNow]

/-- With a job, a MAP turn visits its index and goes on to the next one (R222). -/
theorem step_map_busy (hturn : turnNow s = .map) (hjob : s.mapBusy = some job) :
    step s = .next { applyIndex job (tookTurn s) with mapBusy := nextJob job } := by
  rw [step_map hturn, mapStep_busy ((tookTurn_mapBusy s).trans hjob)]

theorem step_map_idle (hturn : turnNow s = .map) (hidle : s.mapBusy = none) : step s = .next (tookTurn s) := by
  rw [step_map hturn, mapStep_idle ((tookTurn_mapBusy s).trans hidle)]

end

end Sys2Proof.Machine

namespace Sys2Proof.Proofs

open Sys2Proof.Machine

/-- Settles O12: the word differs from PULL_A or is equal to it. -/
theorem pullAWriteComparesAndStarts : Obligations.PullAWriteComparesAndStarts := fun _ _ _ =>
  ⟨rfl, exec_access_busy rfl, exec_pullAWr_changed, fun hidle hw => hw ▸ exec_pullAWr_equal hidle⟩

/-- Settles O13: the word differs from PULL_B or is equal to it. -/
theorem pullBWriteComparesAndStarts : Obligations.PullBWriteComparesAndStarts := fun _ _ _ =>
  ⟨rfl, exec_access_busy rfl, exec_pullBWr_changed, fun hidle hw => hw ▸ exec_pullBWr_equal hidle⟩

/-- Settles O14: three codes, three holds and three reads. -/
theorem pullReadsReturnWordsAndFlags : Obligations.PullReadsReturnWordsAndFlags := fun _ _ _ =>
  ⟨⟨rfl, rfl, rfl⟩,
    fun hbusy => ⟨exec_access_busy rfl hbusy, exec_access_busy rfl hbusy, exec_access_busy rfl hbusy⟩,
    fun hidle => ⟨exec_pullARd_idle hidle, exec_pullBRd_idle hidle, exec_pullChgRd_idle hidle⟩⟩

/-- Settles O22: MAP is idle or has a job, and the index of a job is unmapped or is a pin's; the turn itself touches
neither pads nor levels nor the inputs of `resolve`. -/
theorem mapStepVisitsOneIndex : Obligations.MapStepVisitsOneIndex := by
  refine fun s hturn => ⟨step_map_idle hturn, fun g w i hjob => ⟨_, step_map_busy hturn hjob, ?frame, rfl,
    fun hnone => ?unmapped, fun k hpin => ⟨?pad, fun j hj => ?others, ?resolved⟩⟩⟩
  case frame => rw [applyIndex_frame]
  case unmapped => simp [applyIndex_unmapped (job := ⟨g, w, i⟩) hnone]
  case pad => simpa using applyIndex_padPull (s := tookTurn s) hpin
  case others => simpa using applyIndex_level_other (s := tookTurn s) hpin hj
  case resolved => simpa using applyIndex_level_same (s := tookTurn s) hpin

/-- Settles O28: extraction by shift and mask, the table of modes, and the round trip bit by bit. -/
theorem pullCodeRoundTrip : Obligations.PullCodeRoundTrip :=
  ⟨pullCode_setWidth, ⟨rfl, rfl, rfl, rfl⟩, placeCode_pullCode_getLsbD⟩

/-- Settles O52: a pin's pad enters its level through `resolve` alone. -/
theorem pullActsOnUndrivenInputsOnly : Obligations.PullActsOnUndrivenInputsOnly :=
  fun _ _ _ _ h => resolve_pull_irrelevant _ _ _ _ _ h

end Sys2Proof.Proofs
end

section
/-! The host protocol (spec/43_host_protocol.md): the bytes of the two report formats (R110, R111, R254), and the
operation that applies an Output Report (R255, R256). -/

namespace Sys2Proof.Machine

/-! ### The bytes of the reports -/

/-- Byte `q` of a little-endian word is the `q`-th of the four bytes it is made of (R71). -/
theorem wordOfBytes_getLsbD_byte {n : Nat} (b : Vector Byte n) (j : Nat) (hj : j + 4 ≤ n) {q r : Nat} (hq : q < 4)
    (hr : r < 8) :
    (wordOfBytes b[j] b[j + 1] b[j + 2] b[j + 3]).getLsbD (8 * q + r) = b[j + q].getLsbD r := by
  simp only [wordOfBytes, BitVec.getLsbD_append]
  match q, hq with
  | 0, _ => rw [if_pos (by omega), Nat.mul_zero, Nat.zero_add]; rfl
  | 1, _ => rw [if_neg (by omega), if_pos (by omega), show 8 * 1 + r - 8 = r by omega]
  | 2, _ => rw [if_neg (by omega), if_neg (by omega), if_pos (by omega), show 8 * 2 + r - 8 - 8 = r by omega]
  | 3, _ =>
    rw [if_neg (by omega), if_neg (by omega), if_neg (by omega), show 8 * 3 + r - 8 - 8 - 8 = r by omega]

/-- A word taken from a report at byte offset `j`, bit by bit (R71, R110). -/
theorem wordOfBytes_getLsbD {n : Nat} (b : Vector Byte n) (j : Nat) (hj : j + 4 ≤ n) (i : Fin 32) :
    (wordOfBytes b[j] b[j + 1] b[j + 2] b[j + 3]).getLsbD i.val = (b[j + i.val / 8]).getLsbD (i.val % 8) := by
  have hbyte := wordOfBytes_getLsbD_byte b j hj (q := i.val / 8) (r := i.val % 8) (by omega) (by omega)
  rwa [Nat.div_add_mod] at hbyte

/-- Each byte of an Input Report is that byte of the word (R111). -/
theorem encodeInput_getElem (x : Word) (b : Fin 4) : (encodeInput x)[b] = byteOfWord x b.val :=
  match b with
  | 0 | 1 | 2 | 3 => rfl

/-! ### Applying a report -/

/-- The two pull writes are not run here but put before the rest of HOST's program, Group A's first (R255, R256). -/
theorem hostOp_applyReport (b : Vector Byte 16) (rest : List HostOp) (s : State) :
    hostOp (.applyReport b) rest s = .next { s with
      lsDirection := (decodeOutput b).direction
      lsOutput := (decodeOutput b).output
      hostProg := wrPullA (.lit (decodeOutput b).pullA) :: wrPullB (.lit (decodeOutput b).pullB) :: rest } := rfl

end Sys2Proof.Machine

namespace Sys2Proof.Proofs

open Sys2Proof.Machine

/-- Settles O55: the four fields are the words at byte offsets 0, 4, 8 and 12 of the report. -/
theorem reportBytesAreLittleEndian : Obligations.ReportBytesAreLittleEndian := by
  refine ⟨fun b i => ⟨?direction, ?pullA, ?pullB, ?output⟩, encodeInput_getElem⟩
  case direction => simpa [decodeOutput] using wordOfBytes_getLsbD b 0 (by omega) i
  case pullA => exact wordOfBytes_getLsbD b 4 (by omega) i
  case pullB => exact wordOfBytes_getLsbD b 8 (by omega) i
  case output => exact wordOfBytes_getLsbD b 12 (by omega) i

/-- Settles O57: HOST's turn runs the operation in the state with the turn used up. -/
theorem reportIsAppliedWhole : Obligations.ReportIsAppliedWhole := fun s rest b hturn hprog =>
  (step_host_cons hturn hprog).trans (hostOp_applyReport b rest (tookTurn s))

end Sys2Proof.Proofs
end

section
/-! What a step can do, by the agent that takes it (spec/10_state.md section 13): one inversion for SEQ and one for
HOST over all their operations, the elements each leaves alone, and the steps that answer a next state. -/

namespace Sys2Proof.Machine

/-! ### HOST -/

/-- All that one HOST step can change of a state, HOST's place in its program aside. -/
inductive HostChange (s : State) : State → Prop
  | nothing : HostChange s s
  | faulted (f : FaultRecord) : HostChange s (raiseFault f s)
  | refused (r : RefuseReason) (hr : ∀ pc w, r ≠ .unknownMicroword pc w) : HostChange s (refuse r s)
  | enabled (b : Bool) (hb : s.seqEn = true → b = true) : HostChange s { s with seqEn := b }
  | sent (v : Word) (hroom : txFull s = false) : HostChange s { s with txq := s.txq ++ [v] }
  | received (x : HostVar) (word : Word) (rest : List Word) (hrxq : s.rxq = word :: rest) :
      HostChange s (setVar x word { s with rxq := rest })
  | wrotePullA (w : Word) (hidle : s.mapBusy = none) :
      HostChange s (startMap .a w (changed s.pullA w)
        { s with pullChg := setFlag .a (changed s.pullA w) s.pullChg, pullA := w })
  | wrotePullB (w : Word) (hidle : s.mapBusy = none) :
      HostChange s (startMap .b w (changed s.pullB w)
        { s with pullChg := setFlag .b (changed s.pullB w) s.pullChg, pullB := w })
  | wroteVar (x : HostVar) (v : Word) : HostChange s (setVar x v s)
  | polled : HostChange s { s with polled := true }
  | tookPacket : HostChange s { s with usbOut := none }
  | appliedReport (d o : Word) : HostChange s { s with lsDirection := d, lsOutput := o }
  | pushedInput (b : InputReport) : HostChange s { s with inBuf := some b }

theorem exec_access_change {i : Instr} {s t : State} (hi : isAccess i = true) (h : exec i s = .next t) :
    HostChange s t := by
  rcases exec_access_cases hi h with rfl | ⟨hb, ⟨f, rfl⟩ | ⟨r, hr, rfl⟩ | ⟨b, hb', rfl⟩ | ⟨v, -, hroom, rfl⟩ |
    ⟨x, w, r, -, hq, rfl⟩ | ⟨w, -, rfl⟩ | ⟨w, -, rfl⟩ | ⟨x, v, rfl⟩⟩
  · exact .nothing
  · exact .faulted f
  · exact .refused r (by rcases hr with rfl | rfl <;> simp)
  · exact .enabled b hb'
  · exact .sent v hroom
  · exact .received x w r hq
  · exact .wrotePullA w hb
  · exact .wrotePullB w hb
  · exact .wroteVar x v

theorem HostChange.hostProg_eq {s t : State} (h : HostChange s t) : t.hostProg = s.hostProg := by
  cases h <;> simp

/-- A HOST step is one change and a move in the program; the program it leaves is what followed the operation, or, of
the operations that touch no register, a report and its two pull writes put before that. -/
theorem hostOp_change {op : HostOp} {rest : List HostOp} {s t : State} (h : hostOp op rest s = .next t) :
    ∃ u, HostChange s u ∧ t = { u with hostProg := t.hostProg } ∧
      (t.hostProg = s.hostProg ∨ t.hostProg = rest ∨ (∃ b, t.hostProg = .applyReport b :: rest) ∨
        ∃ a b, t.hostProg = wrPullA a :: wrPullB b :: rest) := by
  rcases hostOp_cases h with rfl | ⟨r, hr, rfl⟩ | ⟨_, i, u, hi, hu, ⟨_, _, rfl⟩ | rfl⟩ | ⟨rfl, rfl⟩ | ⟨rfl, rfl⟩ |
    ⟨b, rfl, rfl⟩ | ⟨rfl, rfl⟩
  · exact ⟨_, .nothing, rfl, .inl rfl⟩
  · exact ⟨_, .refused r hr, rfl, .inr (.inl rfl)⟩
  · exact ⟨_, exec_access_change hi hu, rfl, .inl (exec_access_change hi hu).hostProg_eq⟩
  · exact ⟨_, exec_access_change hi hu, rfl, .inr (.inl rfl)⟩
  · exact ⟨_, .polled, rfl, .inr (.inl rfl)⟩
  · refine ⟨_, .tookPacket, rfl, ?_⟩
    cases pulledReport s with
    | none => exact .inr (.inl rfl)
    | some b => exact .inr (.inr (.inl ⟨b, rfl⟩))
  · exact ⟨_, .appliedReport (decodeOutput b).direction (decodeOutput b).output, rfl, .inr (.inr (.inr ⟨_, _, rfl⟩))⟩
  · exact ⟨_, .pushedInput _, rfl, .inr (.inl rfl)⟩

theorem hostStep_change {s t : State} (h : hostStep s = .next t) :
    ∃ u, HostChange s u ∧ t = { u with hostProg := t.hostProg } := by
  obtain ⟨op, rest, e⟩ := hostStep_op s
  obtain ⟨u, hu, ht, -⟩ := hostOp_change (e ▸ h)
  exact ⟨u, hu, ht⟩

/-- HOST's program never gains a bus access: what a step puts into it are accesses by code and a report (R255, R265). -/
theorem hostStep_bus_mem {s t : State} (h : hostStep s = .next t) {write : Bool} {addr width : Nat} {x : HostVar}
    {v : HostVal} (hm : .bus write addr width x v ∈ t.hostProg) : .bus write addr width x v ∈ s.hostProg := by
  cases hp : s.hostProg with
  | nil =>
    rw [hostStep_top hp] at h
    cases h
    simp [exchange, sendPair] at hm
  | cons op rest =>
    rw [hostStep_cons hp] at h
    obtain ⟨u, -, -, hprog | hprog | ⟨b, hprog⟩ | ⟨a, b, hprog⟩⟩ := hostOp_change h <;> rw [hprog] at hm
    · exact hp ▸ hm
    · exact List.mem_cons_of_mem _ hm
    · exact List.mem_cons_of_mem _ (by simpa using hm)
    · exact List.mem_cons_of_mem _ (by simpa [wrPullA, wrPullB] using hm)

/-- An access by code or by bus always answers a next state (R189, R307). -/
theorem hostAccess_next (d : Except RefuseReason Instr) (rest : List HostOp) (s : State) :
    ∃ t, hostAccess d rest s = .next t := by
  cases d with
  | error r => exact ⟨_, rfl⟩
  | ok i =>
    obtain ⟨t, ht⟩ := exec_next i s
    exact ⟨_, by simp only [hostAccess, hostRun, ht]; rfl⟩

/-- A HOST operation answers a next state, or is a bus access below the block's base (R76). -/
theorem hostOp_next_or_outside (op : HostOp) (rest : List HostOp) (s : State) :
    (∃ t, hostOp op rest s = .next t) ∨
    (∃ write addr width x v, op = .bus write addr width x v ∧ addr < blockBase s ∧
      hostOp op rest s = .refused (.outsideBlock addr)) := by
  have run (i : Instr) : ∃ t, hostRun i rest s = .next t := hostAccess_next (.ok i) rest s
  cases op with
  | access code x v => exact .inl (hostAccess_next _ rest s)
  | bus write addr width x v =>
    by_cases hbase : addr < blockBase s
    · exact .inr ⟨write, addr, width, x, v, rfl, hbase, if_pos hbase⟩
    · obtain ⟨t, ht⟩ := hostAccess_next (decodeBus write (addr - blockBase s) width x (getVal v s)) rest s
      exact .inl ⟨t, (if_neg hbase).trans ht⟩
  | waitStatus bit =>
    obtain ⟨t, ht⟩ := exec_next (.statusRd .varT) s
    exact .inl ⟨_, by simp only [hostOp, ht]; rfl⟩
  | send v =>
    by_cases hhold : (mapActive s || txFull s) = true
    · exact .inl ⟨s, if_pos hhold⟩
    · obtain ⟨t, ht⟩ := run (.txfWr (getVal v s))
      exact .inl ⟨t, (if_neg hhold).trans ht⟩
  | recv x =>
    by_cases hhold : (mapActive s || s.rxq.isEmpty) = true
    · exact .inl ⟨s, if_pos hhold⟩
    · obtain ⟨t, ht⟩ := run (.rxfRd x)
      exact .inl ⟨t, (if_neg hhold).trans ht⟩
  | poll | tryPullOutput | applyReport b | pushInput => exact .inl ⟨_, rfl⟩

/-- A HOST step answers a next state, or its program stands at a bus access below the block's base (R76). -/
theorem hostStep_next_or_outside (s : State) :
    (∃ t, hostStep s = .next t) ∨
    (∃ write addr width x v, .bus write addr width x v ∈ s.hostProg ∧ addr < blockBase s ∧
      hostStep s = .refused (.outsideBlock addr)) := by
  cases hp : s.hostProg with
  | nil => exact .inl ⟨_, hostStep_top hp⟩
  | cons op rest =>
    rw [hostStep_cons hp]
    obtain h | ⟨write, addr, width, x, v, rfl, hbase, h⟩ := hostOp_next_or_outside op rest s
    · exact .inl h
    · exact .inr ⟨write, addr, width, x, v, List.mem_cons_self, hbase, h⟩

/-! ### SEQ -/

/-- What SEQ leaves alone: pads and drive, the pull words and the job, the enable and the faults, and all that is
HOST's; the queues move by one word at SEQ's end. -/
structure SeqFrame (s t : State) : Prop where
  params : t.params = s.params
  seqProg : t.seqProg = s.seqProg
  seqEn : t.seqEn = s.seqEn
  padPull : t.padPull = s.padPull
  ext : t.ext = s.ext
  pullA : t.pullA = s.pullA
  pullB : t.pullB = s.pullB
  pullChg : t.pullChg = s.pullChg
  mapBusy : t.mapBusy = s.mapBusy
  faults : t.faults = s.faults
  lsDirection : t.lsDirection = s.lsDirection
  lsOutput : t.lsOutput = s.lsOutput
  lsInput : t.lsInput = s.lsInput
  varT : t.varT = s.varT
  varX : t.varX = s.varX
  varC : t.varC = s.varC
  hostProg : t.hostProg = s.hostProg
  refused : s.refused = true → t.refused = true
  reasons : ∀ r ∈ s.reasons, r ∈ t.reasons
  txq : t.txq = s.txq ∨ s.txq = t.osr :: t.txq
  rxq : t.rxq = s.rxq ∨ t.rxq = s.rxq ++ [s.isr]

theorem seqStep_frame {s t : State} (h : seqStep s = .next t) : SeqFrame s t := by
  rcases seqStep_cases h with rfl | ⟨-, word, i, -, hi, he⟩ | ⟨-, word, w, -, -, rfl⟩
  · constructor <;> simp
  · rcases exec_micro_cases (isAccess_of_decodeMicro hi) he with rfl | ⟨-, word, rest, htxq, rfl⟩ | ⟨-, rfl⟩ |
      ⟨-, rfl⟩ | ⟨-, rfl⟩ | ⟨-, -, rfl⟩ <;> constructor <;> simp_all
  · constructor <;> simp_all

/-- The micro-operation at a step of the fixed program (R103). -/
def programOp (pc : BitVec 3) : Instr :=
  match pc.toNat with
  | 0 | 2 => .pull
  | 1 => .outPindirs
  | 3 => .outPins
  | 4 => .inPins
  | _ => .push

theorem microprogram_decodes : ∀ pc : BitVec 3, pc.toNat ≤ 5 →
    microprogram[pc.toNat]?.map decodeMicro = some (.ok (programOp pc)) := by
  decide

theorem isAccess_programOp (pc : BitVec 3) : isAccess (programOp pc) = false := by
  unfold programOp
  split <;> rfl

/-- Below step 6, a SEQ step of the fixed program runs the micro-operation of its step, and is never refused. -/
theorem seqStep_program {s : State} (hprog : s.seqProg = microprogram) (hpc : s.seqPc.toNat ≤ 5)
    (hen : seqEnabled s = true) : seqStep s = exec (programOp s.seqPc) s := by
  obtain ⟨word, hword, hdec⟩ := Option.map_eq_some_iff.mp (microprogram_decodes s.seqPc hpc)
  have hfetch : fetchWord s = some word := by rw [fetchWord, hprog, hword]
  simp only [seqStep, hen, hfetch, hdec, if_true]

/-- All a SEQ step of the fixed program can do: at step 6 or 7 it would answer no next state (R35). -/
theorem seqStep_program_cases {s t : State} (hprog : s.seqProg = microprogram) (h : seqStep s = .next t) :
    (seqEnabled s = false ∧ t = s) ∨ (s.seqPc.toNat ≤ 5 ∧ exec (programOp s.seqPc) s = .next t) := by
  cases hen : seqEnabled s with
  | false =>
    simp only [seqStep, hen, Bool.false_eq_true, if_false] at h
    cases h
    exact .inl ⟨rfl, rfl⟩
  | true =>
    by_cases hpc : s.seqPc.toNat ≤ 5
    · exact .inr ⟨hpc, seqStep_program hprog hpc hen ▸ h⟩
    · have hfetch : fetchWord s = none := by
        rw [fetchWord, hprog]
        exact Vector.getElem?_eq_none (by omega)
      simp only [seqStep, hen, hfetch, if_true] at h
      cases h

/-- A SEQ step of the fixed program refuses nothing (R104). -/
theorem seqStep_program_refused {s t : State} (hprog : s.seqProg = microprogram) (h : seqStep s = .next t) :
    t.refused = s.refused := by
  rcases seqStep_program_cases hprog h with ⟨-, rfl⟩ | ⟨-, hexec⟩
  · rfl
  · rcases exec_micro_cases (isAccess_programOp _) hexec with rfl | ⟨-, _, _, -, rfl⟩ | ⟨-, rfl⟩ | ⟨-, rfl⟩ |
      ⟨-, rfl⟩ | ⟨-, -, rfl⟩ <;> simp

end Sys2Proof.Machine
end

section
/-! The invariant of the block (spec/10_state.md R31 to R49): each agent keeps it, so every step does. -/

namespace Sys2Proof.Machine

open Sys2Proof.Safety

variable {s t : State}

/-! ### A reconfiguration applies its group's word -/

theorem shadow_startMap (g g' : Group) (w : Word) (chg : Bool) (s : State) :
    shadow g (startMap g' w chg s) = shadow g s := by
  cases g <;> simp [shadow]

theorem flagOf_startMap (g g' : Group) (w : Word) (chg : Bool) (s : State) :
    flagOf g (startMap g' w chg s) = flagOf g s := by
  simp [flagOf]

theorem jobMatchesShadow_of_idle (hidle : s.mapBusy = none) : JobMatchesShadow s :=
  fun _ hjob => by simp [hidle] at hjob

/-- A write of a pull word starts a job that applies it, or no job at all (R214, R215). -/
theorem jobMatchesShadow_startMap {g : Group} {w : Word} {chg : Bool} (hidle : s.mapBusy = none)
    (hword : shadow g s = w) (hflag : flagOf g s = chg) : JobMatchesShadow (startMap g w chg s) := by
  intro job hjob
  cases chg with
  | false => simp [hidle] at hjob
  | true =>
    simp only [startMap_mapBusy, if_true, Option.some.injEq] at hjob
    subst hjob
    exact ⟨(shadow_startMap ..).trans hword, (flagOf_startMap ..).trans hflag⟩

theorem jobMatchesShadow_nextJob {job : MapJob} (h : JobMatchesShadow s) (hjob : s.mapBusy = some job) :
    JobMatchesShadow { s with mapBusy := nextJob job } := by
  intro job' hjob'
  have hnext : nextJob job = some job' := hjob'
  unfold nextJob at hnext
  split at hnext
  · cases hnext
  · cases hnext
    exact h job hjob

/-! ### Each agent keeps the invariant -/

theorem length_lt_txqDepth_of_not_full (h : BlockInv s) (hroom : txFull s = false) : s.txq.length < txqDepth s :=
  lt_of_le_of_ne h.txq_le (txFull_eq_false_iff.mp hroom)

theorem length_lt_rxqDepth_of_not_full (h : BlockInv s) (hroom : rxFull s = false) : s.rxq.length < rxqDepth s :=
  lt_of_le_of_ne h.rxq_le (rxFull_eq_false_iff.mp hroom)

theorem refuse_keeps_blockInv {r : RefuseReason} (h : BlockInv s) (hr : ∀ pc w, r ≠ .unknownMicroword pc w) :
    BlockInv (refuse r s) :=
  { h with
    reasons_nodup := h.reasons_nodup.insert
    refused_iff := by simp [List.ne_nil_of_mem (List.mem_insert_self : r ∈ s.reasons.insert r)]
    no_unknown := fun pc w hm => (List.mem_insert_iff.mp hm).elim (fun e => hr pc w e.symm) (h.no_unknown pc w) }

theorem blockInv_startMap {g : Group} {w : Word} {chg : Bool} (h : BlockInv s) (hidle : s.mapBusy = none)
    (hword : shadow g s = w) (hflag : flagOf g s = chg) : BlockInv (startMap g w chg s) := by
  have hjob := jobMatchesShadow_startMap hidle hword hflag
  cases chg <;> exact { h with job_matches := hjob }

theorem HostChange.blockInv (hc : HostChange s t) (h : BlockInv s) : BlockInv t := by
  cases hc with
  | nothing => exact h
  | faulted f => exact { h with faults_nodup := h.faults_nodup.insert }
  | refused r hr => exact refuse_keeps_blockInv h hr
  | enabled b hb => exact { h with }
  | sent v hroom =>
    have hlt := length_lt_txqDepth_of_not_full h hroom
    exact { h with txq_le := by simpa [txqDepth] using hlt }
  | received x word rest hrxq =>
    have hle : rest.length ≤ rxqDepth s := by
      have := h.rxq_le
      rw [hrxq, List.length_cons] at this
      omega
    cases x <;> exact { h with rxq_le := hle }
  | wrotePullA w hidle =>
    exact blockInv_startMap (g := .a) { h with job_matches := jobMatchesShadow_of_idle hidle } hidle rfl
      (setFlag_same ..)
  | wrotePullB w hidle =>
    exact blockInv_startMap (g := .b) { h with job_matches := jobMatchesShadow_of_idle hidle } hidle rfl
      (setFlag_same ..)
  | wroteVar x v => cases x <;> exact { h with }
  | polled | tookPacket | appliedReport d o | pushedInput b => exact { h with }

theorem hostStep_keeps_blockInv (h : BlockInv s) (hstep : hostStep s = .next t) : BlockInv t := by
  obtain ⟨u, hu, ht⟩ := hostStep_change hstep
  rw [ht]
  exact { hu.blockInv h with }

/-- Pads, drive, levels and the count of draws are no part of the invariant. -/
theorem blockInv_with_pins (h : BlockInv s) (pads : PinMap PullMode) (ext : PinMap Drive) (level : PinMap Bool)
    (draws : Nat) : BlockInv { s with padPull := pads, ext := ext, level := level, draws := draws } :=
  { h with }

theorem refreshAll_keeps_blockInv (h : BlockInv s) : BlockInv (refreshAll s) :=
  blockInv_with_pins h s.padPull s.ext _ _

theorem blockInv_with_isr_pc (h : BlockInv s) (isr : Word) {pc : BitVec 3} (hpc : pc.toNat ≤ 5) :
    BlockInv { s with isr := isr, seqPc := pc } :=
  { h with pc_le := hpc }

/-- PULL stands only at the steps 0 and 2, so the index it adds 1 to stays below 6 (R35, R103). -/
theorem programOp_pull : ∀ pc : BitVec 3, programOp pc = .pull → (pc + 1).toNat ≤ 5 := by
  decide

theorem seqStep_keeps_blockInv (h : BlockInv s) (hstep : seqStep s = .next t) : BlockInv t := by
  rcases seqStep_program_cases h.prog_eq hstep with ⟨-, rfl⟩ | ⟨-, hexec⟩
  · exact h
  rcases exec_micro_cases (isAccess_programOp _) hexec with rfl | ⟨hop, word, rest, htxq, rfl⟩ | ⟨-, rfl⟩ | ⟨-, rfl⟩ |
    ⟨-, rfl⟩ | ⟨-, hroom, rfl⟩
  · exact h
  · have hle : rest.length ≤ txqDepth s := by
      have := h.txq_le
      rw [htxq, List.length_cons] at this
      omega
    exact { h with txq_le := hle, pc_le := programOp_pull _ hop }
  · have hu : BlockInv (refreshAll { s with pindir := s.osr, osr := 0 }) := refreshAll_keeps_blockInv { h with }
    exact blockInv_with_isr_pc hu _ (by decide)
  · have hu : BlockInv (refreshAll { s with pinout := s.osr, osr := 0 }) := refreshAll_keeps_blockInv { h with }
    exact blockInv_with_isr_pc hu _ (by decide)
  · exact blockInv_with_isr_pc (refreshAll_keeps_blockInv h) _ (by decide)
  · have hlt := length_lt_rxqDepth_of_not_full h hroom
    exact { h with rxq_le := by simpa [rxqDepth] using hlt, pc_le := Nat.zero_le _ }

theorem applyIndex_keeps_blockInv (job : MapJob) (h : BlockInv s) : BlockInv (applyIndex job s) := by
  rw [applyIndex_frame]
  exact blockInv_with_pins h _ s.ext _ _

theorem mapStep_keeps_blockInv (h : BlockInv s) : BlockInv (mapStep s) := by
  cases hbusy : s.mapBusy with
  | none => rwa [mapStep_idle hbusy]
  | some job =>
    rw [mapStep_busy hbusy]
    have hu := applyIndex_keeps_blockInv job h
    exact { hu with job_matches := jobMatchesShadow_nextJob hu.job_matches ((applyIndex_mapBusy job s).trans hbusy) }

theorem envStep_keeps_blockInv (e : EnvEvent) (h : BlockInv s) : BlockInv (envStep e s) := by
  cases e with
  | drive change => exact blockInv_with_pins h s.padPull _ _ _
  | deliver packet => exact { h with }
  | fetch => exact { h with }

theorem tookTurn_keeps_blockInv (h : BlockInv s) : BlockInv (tookTurn s) := by
  unfold tookTurn
  split <;> exact { h with }

theorem agentStep_keeps_blockInv {turn : Turn} (h : BlockInv s) (hstep : agentStep turn s = .next t) : BlockInv t := by
  cases turn with
  | seq => exact seqStep_keeps_blockInv h hstep
  | map => cases hstep; exact mapStep_keeps_blockInv h
  | host => exact hostStep_keeps_blockInv h hstep
  | env e => cases hstep; exact envStep_keeps_blockInv e h

theorem reset_blockInv : BlockInv State.reset where
  txq_le := Nat.zero_le _
  rxq_le := Nat.zero_le _
  pc_le := Nat.zero_le _
  prog_eq := rfl
  faults_nodup := .nil
  reasons_nodup := .nil
  refused_iff := by simp [State.reset]
  no_unknown := fun _ _ => List.not_mem_nil
  job_matches := nofun

end Sys2Proof.Machine

namespace Sys2Proof.Proofs

open Sys2Proof.Machine

/-- Settles O29: the queues and the records are empty, and no job runs. -/
theorem blockInvAtReset : Obligations.BlockInvAtReset := reset_blockInv

/-- Settles O30: whichever agent has the turn keeps the invariant. -/
theorem stepKeepsBlockInv : Obligations.StepKeepsBlockInv := fun _ _ h hstep =>
  agentStep_keeps_blockInv (tookTurn_keeps_blockInv h) hstep

end Sys2Proof.Proofs
end

section
/-! The pads of a group whose flag is set follow its pull word (spec/42_pull_mapper.md R214, R222): HOST starts the
job that brings them there, MAP runs it, and no other agent touches pads, words, flags or jobs. -/

namespace Sys2Proof.Machine

open Sys2Proof.Safety

variable {s t : State}

/-- The agreement of pads with pull words reads pads, words, flags and the job, and nothing else. -/
theorem padsFollowShadow_congr (h : PadsFollowShadow s) (hpads : t.padPull = s.padPull) (ha : t.pullA = s.pullA)
    (hb : t.pullB = s.pullB) (hchg : t.pullChg = s.pullChg) (hjob : t.mapBusy = s.mapBusy) : PadsFollowShadow t := by
  intro g i k
  have hshadow : shadow g t = shadow g s := by cases g; exacts [ha, hb]
  simp only [flagOf, Applied, hshadow, hpads, hchg, hjob]
  exact h g i k

/-- With no job running, every index counts as applied. -/
theorem applied_of_idle {g : Group} {i : Fin 16} (hidle : s.mapBusy = none) : Applied g i s :=
  fun _ hjob => by simp [hidle] at hjob

/-- A write of a group's pull word: either it leaves the group's flag clear, or its job has passed no index of the group
yet; the other group keeps word and flag. -/
theorem padsFollowShadow_startMap {g : Group} {w : Word} {u : State} (h : PadsFollowShadow s)
    (hidle : s.mapBusy = none) (hpads : u.padPull = s.padPull)
    (hflag : u.pullChg = setFlag g (changed (shadow g s) w) s.pullChg)
    (hother : ∀ g', g' ≠ g → shadow g' u = shadow g' s) :
    PadsFollowShadow (startMap g w (changed (shadow g s) w) u) := by
  intro g' i k hset hpin happ
  rw [flagOf_startMap, flagOf, hflag] at hset
  rw [shadow_startMap, startMap_padPull, hpads]
  by_cases hg : g' = g
  · subst hg
    rw [setFlag_same] at hset
    have hpassed : i < (0 : Fin 16) := happ ⟨g', w, 0⟩ (by simp [hset]) rfl
    exact absurd hpassed (by omega)
  · rw [setFlag_other _ _ _ _ hg] at hset
    rw [hother g' hg]
    exact h g' i k hset hpin (applied_of_idle hidle)

theorem HostChange.padsFollowShadow (hc : HostChange s t) (h : PadsFollowShadow s) : PadsFollowShadow t := by
  cases hc with
  | nothing => exact h
  | wrotePullA w hidle =>
    exact padsFollowShadow_startMap (g := .a) h hidle rfl rfl fun g' hg => by
      cases g' with
      | a => exact absurd rfl hg
      | b => rfl
  | wrotePullB w hidle =>
    exact padsFollowShadow_startMap (g := .b) h hidle rfl rfl fun g' hg => by
      cases g' with
      | a => rfl
      | b => exact absurd rfl hg
  | received x | wroteVar x => exact padsFollowShadow_congr h (by simp) (by simp) (by simp) (by simp) (by simp)
  | _ => exact padsFollowShadow_congr h rfl rfl rfl rfl rfl

theorem hostStep_keeps_padsFollowShadow (h : PadsFollowShadow s) (hstep : hostStep s = .next t) :
    PadsFollowShadow t := by
  obtain ⟨u, hu, ht⟩ := hostStep_change hstep
  rw [ht]
  exact padsFollowShadow_congr (hu.padsFollowShadow h) rfl rfl rfl rfl rfl

theorem seqStep_keeps_padsFollowShadow (h : PadsFollowShadow s) (hstep : seqStep s = .next t) :
    PadsFollowShadow t :=
  have f := seqStep_frame hstep
  padsFollowShadow_congr h f.padPull f.pullA f.pullB f.pullChg f.mapBusy

/-- Of the indices that a job's step makes applied, all but its own were so before. -/
theorem applied_of_applied_nextJob {job : MapJob} {g : Group} {i : Fin 16} (hjob : s.mapBusy = some job)
    (hne : g = job.group → i ≠ job.index) (h : Applied g i { s with mapBusy := nextJob job }) : Applied g i s := by
  intro job' hjob' hg
  obtain rfl : job = job' := Option.some.inj (hjob.symm.trans hjob')
  have hne' := hne hg.symm
  by_cases hlast : job.index = 15
  · omega
  · have hpassed : i < job.index + 1 := h { job with index := job.index + 1 } (if_neg hlast) hg
    omega

/-- The pad of an index after a step of a job: the job's own index has its code's mode, every other its pad (R222). -/
theorem applyIndex_padPull_getElem {job : MapJob} {g : Group} {i : Fin 16} {k : Pin} (s : State)
    (hpin : groupPin g i = some k) :
    (applyIndex job s).padPull[k] =
      if g = job.group ∧ i = job.index then decodePull (pullCode job.word i) else s.padPull[k] := by
  by_cases hown : g = job.group ∧ i = job.index
  · obtain ⟨rfl, rfl⟩ := hown
    simp [applyIndex_padPull hpin]
  · rw [if_neg hown]
    cases hj : groupPin job.group job.index with
    | none => rw [applyIndex_unmapped hj]
    | some j =>
      have hjk : j.val ≠ k.val := fun e =>
        hown (groupPin_injective g job.group i job.index (by rw [hpin]; rfl) (by rw [hpin, hj, Fin.ext e]))
      simp [applyIndex_padPull hj, hjk]

theorem shadow_applyIndex (g : Group) (job : MapJob) (s : State) : shadow g (applyIndex job s) = shadow g s := by
  cases g <;> simp [shadow]

theorem mapStep_keeps_padsFollowShadow (hjobs : JobMatchesShadow s) (h : PadsFollowShadow s) :
    PadsFollowShadow (mapStep s) := by
  cases hbusy : s.mapBusy with
  | none => rwa [mapStep_idle hbusy]
  | some job =>
    rw [mapStep_busy hbusy]
    intro g i k hset hpin happ
    have hset' : flagOf g s = true := by simpa [flagOf] using hset
    have happ' : Applied g i { s with mapBusy := nextJob job } := happ
    calc (applyIndex job s).padPull[k]
        = if g = job.group ∧ i = job.index then decodePull (pullCode job.word i) else s.padPull[k] :=
          applyIndex_padPull_getElem s hpin
      _ = decodePull (pullCode (shadow g s) i) := by
          split
          · rename_i hown
            obtain ⟨rfl, -⟩ := hown
            rw [(hjobs job hbusy).1]
          · rename_i hother
            exact h g i k hset' hpin
              (applied_of_applied_nextJob hbusy (fun hg hi => hother ⟨hg, hi⟩) happ')
      _ = decodePull (pullCode (shadow g (applyIndex job s)) i) := by rw [shadow_applyIndex]

theorem agentStep_keeps_padsFollowShadow {turn : Turn} (hjobs : JobMatchesShadow s) (h : PadsFollowShadow s)
    (hstep : agentStep turn s = .next t) : PadsFollowShadow t := by
  cases turn with
  | seq => exact seqStep_keeps_padsFollowShadow h hstep
  | map => cases hstep; exact mapStep_keeps_padsFollowShadow hjobs h
  | host => exact hostStep_keeps_padsFollowShadow h hstep
  | env e => cases hstep; exact padsFollowShadow_congr h (by simp) (by simp) (by simp) (by simp) (by simp)

theorem tookTurn_keeps_padsFollowShadow (h : PadsFollowShadow s) : PadsFollowShadow (tookTurn s) :=
  padsFollowShadow_congr h (by simp) (by simp) (by simp) (by simp) (by simp)

end Sys2Proof.Machine

namespace Sys2Proof.Proofs

open Sys2Proof.Machine

/-- Settles O31: a job applies its group's word, so the index it passes gets the mode it should have. -/
theorem stepKeepsPadsFollowShadow : Obligations.StepKeepsPadsFollowShadow := fun _ _ hinv h hstep =>
  agentStep_keeps_padsFollowShadow (tookTurn_keeps_blockInv hinv).job_matches (tookTurn_keeps_padsFollowShadow h) hstep

end Sys2Proof.Proofs
end

section
/-! Who writes what (spec/10_state.md R31, section 13): read off what each agent leaves alone. -/

namespace Sys2Proof.Machine

open Sys2Proof.Safety

variable {s t : State}

theorem seqFrame_of_step (h : step s = .next t) (hturn : turnNow s = .seq) : SeqFrame (tookTurn s) t :=
  seqStep_frame (step_seq hturn ▸ h)

theorem hostFrame_of_step (h : step s = .next t) (hturn : turnNow s = .host) : HostFrame (tookTurn s) t :=
  hostStep_frame (step_host hturn ▸ h)

theorem eq_mapStep_of_step (h : step s = .next t) (hturn : turnNow s = .map) : t = mapStep (tookTurn s) := by
  rw [step_map hturn] at h
  cases h
  rfl

theorem eq_envStep_of_step {e : EnvEvent} (h : step s = .next t) (hturn : turnNow s = .env e) :
    t = envStep e (tookTurn s) := by
  rw [step_env hturn] at h
  cases h
  rfl

/-- A step of an agent other than HOST does not move HOST in its program. -/
theorem step_hostProg_of_ne_host (h : step s = .next t) (hne : turnNow s ≠ .host) : t.hostProg = s.hostProg := by
  cases hturn : turnNow s with
  | seq => simpa using (seqFrame_of_step h hturn).hostProg
  | map => simp [eq_mapStep_of_step h hturn]
  | host => exact absurd hturn hne
  | env e => simp [eq_envStep_of_step h hturn]

theorem step_params (h : step s = .next t) : t.params = s.params := by
  cases hturn : turnNow s with
  | seq => simpa using (seqFrame_of_step h hturn).params
  | map => simp [eq_mapStep_of_step h hturn]
  | host => simpa using (hostFrame_of_step h hturn).params
  | env e => simp [eq_envStep_of_step h hturn]

/-- A running reconfiguration after a step: MAP goes on to its next index, any other agent leaves it (R220, R222). -/
theorem step_mapBusy {job : MapJob} (h : step s = .next t) (hjob : s.mapBusy = some job) :
    t.mapBusy = if turnNow s = .map then nextJob job else some job := by
  cases hturn : turnNow s with
  | seq => simpa [hjob] using (seqFrame_of_step h hturn).mapBusy
  | map => simp [eq_mapStep_of_step h hturn, mapStep_busy ((tookTurn_mapBusy s).trans hjob)]
  | host => simpa [hjob] using (hostFrame_of_step h hturn).mapBusy (by simp [hjob])
  | env e => simp [eq_envStep_of_step h hturn, hjob]

/-- A SEQ step of the fixed program below step 6 answers a next state. -/
theorem seqStep_next (hprog : s.seqProg = microprogram) (hpc : s.seqPc.toNat ≤ 5) : ∃ t, seqStep s = .next t := by
  cases hen : seqEnabled s with
  | true => exact seqStep_program hprog hpc hen ▸ exec_next _ s
  | false => exact ⟨s, by simp [seqStep, hen]⟩

/-- Every step of a good state goes on, or is a HOST access below the block's base (R76). -/
theorem step_next_or_outside (h : BlockInv s) :
    (∃ t, step s = .next t) ∨
    (turnNow s = .host ∧ ∃ write addr width x v, .bus write addr width x v ∈ s.hostProg ∧ addr < blockBase s ∧
      step s = .refused (.outsideBlock addr)) := by
  cases hturn : turnNow s with
  | seq =>
    have h' := tookTurn_keeps_blockInv h
    exact .inl (step_seq hturn ▸ seqStep_next h'.prog_eq h'.pc_le)
  | map => exact .inl ⟨_, step_map hturn⟩
  | host =>
    rw [step_host hturn]
    obtain hnext | ⟨write, addr, width, x, v, hmem, hbase, hstep⟩ := hostStep_next_or_outside (tookTurn s)
    · exact .inl hnext
    · exact .inr ⟨rfl, write, addr, width, x, v, by simpa using hmem, by simpa [blockBase] using hbase, hstep⟩
  | env e => exact .inl ⟨_, step_env hturn⟩

end Sys2Proof.Machine

namespace Sys2Proof.Proofs

open Sys2Proof.Machine

/-- Settles O36: MAP and ENV touch neither queue, SEQ and HOST move each by one word at their own end. -/
theorem queuesAreFifo : Obligations.QueuesAreFifo := by
  intro s t h
  cases hturn : turnNow s with
  | seq =>
    have f := seqFrame_of_step h hturn
    exact ⟨by simpa using f.txq, by simpa using f.rxq⟩
  | map => simp [eq_mapStep_of_step h hturn]
  | host =>
    have f := hostFrame_of_step h hturn
    exact ⟨by simpa using f.txq, by simpa using f.rxq⟩
  | env e => simp [eq_envStep_of_step h hturn]

/-- Settles O37: each clause is a field of the frame of the agent that had the turn. -/
theorem eachAgentWritesItsOwn : Obligations.EachAgentWritesItsOwn := by
  intro s t h
  cases hturn : turnNow s with
  | seq =>
    have f := seqFrame_of_step h hturn
    simp [f.seqEn, f.padPull, f.ext, f.pullA, f.pullB, f.pullChg, f.faults, f.lsDirection, f.lsOutput, f.lsInput,
      f.varT, f.varX, f.varC, f.hostProg]
  | map => simp [eq_mapStep_of_step h hturn]
  | host =>
    have f := hostFrame_of_step h hturn
    simp [f.osr, f.isr, f.seqPc, f.pindir, f.pinout, f.padPull, f.ext, f.level]
  | env e => simp [eq_envStep_of_step h hturn]

/-- Settles O38: HOST adds to the marks, SEQ to the reasons alone, and neither writes the program or the parameters. -/
theorem marksStayAndProgramIsFixed : Obligations.MarksStayAndProgramIsFixed := by
  intro s t h
  cases hturn : turnNow s with
  | seq =>
    have f := seqFrame_of_step h hturn
    simpa [f.seqEn, f.faults, f.seqProg, f.params] using And.intro f.refused f.reasons
  | map => simp [eq_mapStep_of_step h hturn]
  | host =>
    have f := hostFrame_of_step h hturn
    simpa [f.seqProg, f.params] using And.intro f.seqEn (And.intro f.refused (And.intro f.faults f.reasons))
  | env e => simp [eq_envStep_of_step h hturn]

/-- Settles O39: `nextJob` is what MAP makes of the job, and the frames of the others leave it. -/
theorem onlyMapAdvancesAJob : Obligations.OnlyMapAdvancesAJob := fun _ _ _ _ _ hjob h => step_mapBusy h hjob

/-- Settles O40: of the agents other than HOST only SEQ touches the queues; it takes from TXQ and adds to RXQ. -/
theorem roomAndSamplesStayForHost : Obligations.RoomAndSamplesStayForHost := by
  intro s t h hne
  have hdepth : txqDepth t = txqDepth s := by simp [txqDepth, step_params h]
  rw [hdepth]
  obtain ⟨htxq, hrxq⟩ := queuesAreFifo s t h
  constructor
  · intro hroom
    rcases htxq with heq | ⟨-, hcons⟩ | ⟨hhost, -⟩
    · exact heq ▸ hroom
    · have hlen := congrArg List.length hcons
      rw [List.length_cons] at hlen
      omega
    · exact absurd hhost hne
  · intro hsample
    rcases hrxq with heq | ⟨-, happend⟩ | ⟨hhost, -⟩
    · exact heq ▸ hsample
    · simp [happend]
    · exact absurd hhost hne

/-- Settles O41: the program keeps SEQ at an admitted word, and no meaning stops. -/
theorem noStepStopsInsideTheBlock : Obligations.NoStepStopsInsideTheBlock := by
  intro s h
  obtain hnext | ⟨hturn, _, addr, _, _, _, -, hbase, hstep⟩ := step_next_or_outside h
  · exact .inl hnext
  · exact .inr ⟨hturn, addr, hstep, hbase⟩

end Sys2Proof.Proofs
end

section
/-! The reference loop (spec/43_host_protocol.md R265 to R270): where HOST stands fixes where SEQ stands and what both
queues hold. SEQ moves the pair through its phases, HOST moves from one phase to the next, MAP and ENV move neither. -/

namespace Sys2Proof.Machine

open Sys2Proof.Safety

variable {s t : State}

/-! ### SEQ in the loop -/

theorem SeqRuns.seqStep_at (hs : SeqRuns s) {pc : BitVec 3} (hpc : s.seqPc = pc) (hle : pc.toNat ≤ 5) :
    seqStep s = exec (programOp pc) s := by
  subst hpc
  exact seqStep_program hs.prog_eq hle (by simp [seqEnabled, hs.enabled, hs.unrefused])

theorem programOp_pull_le : ∀ pc : BitVec 3, programOp pc = .pull → pc.toNat ≤ 5 := by
  decide

/-- Where the program has a PULL, SEQ holds while TXQ is empty, started or not. -/
theorem seqStep_no_word (hprog : s.seqProg = microprogram) (hop : programOp s.seqPc = .pull) (htxq : s.txq = []) :
    seqStep s = .next s := by
  cases hen : seqEnabled s with
  | true =>
    rw [seqStep_program hprog (programOp_pull_le _ hop) hen, hop]
    exact execPull_nil htxq
  | false => simp [seqStep, hen]

/-- A SEQ that waits for a direction word holds. -/
theorem seqStep_waiting (hprog : s.seqProg = microprogram) (h : SeqWaiting s) : seqStep s = .next s := by
  obtain ⟨hpc, htxq, -⟩ := h
  exact seqStep_no_word hprog (by rw [hpc]; rfl) htxq

/-- SEQ takes the direction word, applies it and waits for the output word (R267). -/
theorem directionInFlight_seqStep (hs : SeqRuns s) (h : DirectionInFlight s) :
    ∃ t, seqStep s = .next t ∧ DirectionInFlight t := by
  obtain ⟨hrxq, ⟨hpc, htxq⟩ | ⟨hpc, htxq, hosr⟩ | ⟨hpc, htxq, hdir⟩⟩ := h
  · exact ⟨_, (hs.seqStep_at hpc (by decide)).trans (exec_pull_cons htxq (congrArg (· + 1) hpc)),
      hrxq, .inr (.inl ⟨rfl, rfl, rfl⟩)⟩
  · obtain ⟨level, hexec, -⟩ := exec_outPindirs s
    exact ⟨_, (hs.seqStep_at hpc (by decide)).trans hexec, hrxq, .inr (.inr ⟨rfl, htxq, hosr⟩)⟩
  · exact ⟨s, (hs.seqStep_at hpc (by decide)).trans (execPull_nil htxq), hrxq, .inr (.inr ⟨hpc, htxq, hdir⟩)⟩

/-- SEQ brings both words to the pins, samples, and appends the sample to the empty RXQ (R267, R268). -/
theorem pairInFlight_seqStep (hs : SeqRuns s) (h : PairInFlight s) :
    ∃ t, seqStep s = .next t ∧ PairInFlight t := by
  obtain ⟨hrxq, ⟨hpc, htxq⟩ | ⟨hpc, htxq, hosr⟩ | ⟨hpc, htxq, hdir⟩ | ⟨hpc, htxq, hdir, hosr⟩ |
    ⟨hpc | hpc, htxq, hdir, hout⟩⟩ | ⟨hpc, htxq, hrxq, hpins⟩ := h
  · exact ⟨_, (hs.seqStep_at hpc (by decide)).trans (exec_pull_cons htxq (congrArg (· + 1) hpc)),
      .inl ⟨hrxq, .inr (.inl ⟨rfl, rfl, rfl⟩)⟩⟩
  · obtain ⟨level, hexec, -⟩ := exec_outPindirs s
    exact ⟨_, (hs.seqStep_at hpc (by decide)).trans hexec, .inl ⟨hrxq, .inr (.inr (.inl ⟨rfl, htxq, hosr⟩))⟩⟩
  · exact ⟨_, (hs.seqStep_at hpc (by decide)).trans (exec_pull_cons htxq (congrArg (· + 1) hpc)),
      .inl ⟨hrxq, .inr (.inr (.inr (.inl ⟨rfl, rfl, hdir, rfl⟩)))⟩⟩
  · obtain ⟨level, hexec, -⟩ := exec_outPins s
    exact ⟨_, (hs.seqStep_at hpc (by decide)).trans hexec,
      .inl ⟨hrxq, .inr (.inr (.inr (.inr ⟨.inl rfl, htxq, hdir, hosr⟩)))⟩⟩
  · obtain ⟨level, hexec, -⟩ := exec_inPins s
    exact ⟨_, (hs.seqStep_at hpc (by decide)).trans hexec,
      .inl ⟨hrxq, .inr (.inr (.inr (.inr ⟨.inr rfl, htxq, hdir, hout⟩)))⟩⟩
  · have hroom : s.rxq.length ≠ s.params.rxqDepthPred.val + 1 := by simp [hrxq]
    exact ⟨_, (hs.seqStep_at hpc (by decide)).trans (exec_push_room hroom),
      .inr ⟨rfl, htxq, by simp [hrxq], hdir, hout⟩⟩
  · exact ⟨s, (hs.seqStep_at hpc (by decide)).trans (execPull_nil htxq), .inr ⟨hpc, htxq, hrxq, hpins⟩⟩

theorem seqRuns_of_loopInv (h : LoopInv s) (hen : s.seqEn = true) : SeqRuns s :=
  ⟨hen, h.clean.2, h.prog_eq⟩

/-- SEQ moves within the phase that HOST's place fixes. -/
theorem loopInv_seqStep (h : LoopInv s) : ∃ t, seqStep s = .next t ∧ LoopInv t := by
  have keeps {t : State} (hstep : seqStep s = .next t) (hphase : LoopPhase t) : LoopInv t :=
    have f := seqStep_frame hstep
    { clean := ⟨f.faults.trans h.clean.1, (seqStep_program_refused h.prog_eq hstep).trans h.clean.2⟩
      prog_eq := f.seqProg.trans h.prog_eq
      phase := hphase }
  have waits (hwait : SeqWaiting s) : ∃ t, seqStep s = .next t ∧ LoopInv t :=
    ⟨s, seqStep_waiting h.prog_eq hwait, h⟩
  rcases h.phase with ⟨-, -, -, hwait⟩ | ⟨hen, ⟨-, hwait⟩ | ⟨hprog, hidle, hdir⟩ | ⟨hprog, hidle, hpair⟩ |
    ⟨-, -, hwait, -⟩⟩
  case inl | inr.inl | inr.inr.inr.inr => exact waits hwait
  case inr.inr.inl =>
    obtain ⟨t, hstep, hdir'⟩ := directionInFlight_seqStep (seqRuns_of_loopInv h hen) hdir
    have f := seqStep_frame hstep
    exact ⟨t, hstep, keeps hstep
      (.inr ⟨f.seqEn.trans hen, .inr (.inl ⟨f.hostProg.trans hprog, f.mapBusy.trans hidle, hdir'⟩)⟩)⟩
  case inr.inr.inr.inl =>
    obtain ⟨t, hstep, hpair'⟩ := pairInFlight_seqStep (seqRuns_of_loopInv h hen) hpair
    have f := seqStep_frame hstep
    exact ⟨t, hstep, keeps hstep
      (.inr ⟨f.seqEn.trans hen, .inr (.inr (.inl ⟨f.hostProg.trans hprog, f.mapBusy.trans hidle, hpair'⟩))⟩)⟩

/-! ### HOST in the loop -/

/-- The loop between two exchanges: SEQ, started, waits for a direction word, and no reconfiguration runs. -/
structure BetweenExchanges (s : State) : Prop where
  enabled : s.seqEn = true
  idle : s.mapBusy = none
  waiting : SeqWaiting s

/-- What a HOST step of the loop does, by where HOST stands (R265). -/
inductive LoopHostMove (s : State) : State → Prop
  /-- the access or the blocking operation waits for MAP or for SEQ -/
  | held (hheld : s.mapBusy ≠ none ∨ (s.hostProg = exchange.drop 1 ∧ s.txq ≠ []) ∨
      (s.hostProg = exchange.drop 2 ∧ PairInFlight s ∧ s.rxq = [])) (hprog : s.hostProg ≠ []) : LoopHostMove s s
  | started (hprog : s.hostProg = bootProg) (hidle : s.mapBusy = none) (hwait : SeqWaiting s) :
      LoopHostMove s { s with seqEn := true, hostProg := [] }
  | began (hprog : s.hostProg = []) (hs : BetweenExchanges s) :
      LoopHostMove s { s with polled := true, hostProg := .tryPullOutput :: exchange }
  | noReport (hprog : s.hostProg = .tryPullOutput :: exchange) (hs : BetweenExchanges s) :
      LoopHostMove s { s with usbOut := none, hostProg := exchange }
  | gotReport (b : Vector Byte 16) (hprog : s.hostProg = .tryPullOutput :: exchange) (hs : BetweenExchanges s) :
      LoopHostMove s { s with usbOut := none, hostProg := .applyReport b :: exchange }
  | appliedReport (b : Vector Byte 16) (d o a c : Word) (hprog : s.hostProg = .applyReport b :: exchange)
      (hs : BetweenExchanges s) :
      LoopHostMove s { s with
        lsDirection := d, lsOutput := o, hostProg := setPulls (.lit a) (.lit c) ++ exchange }
  | wrotePullA (a b : Word) (chg : BitVec 2) (job : Option MapJob)
      (hprog : s.hostProg = setPulls (.lit a) (.lit b) ++ exchange) (hs : BetweenExchanges s) :
      LoopHostMove s { s with pullA := a, pullChg := chg, mapBusy := job, hostProg := wrPullB (.lit b) :: exchange }
  | wrotePullB (b : Word) (chg : BitVec 2) (job : Option MapJob) (hprog : s.hostProg = wrPullB (.lit b) :: exchange)
      (hs : BetweenExchanges s) :
      LoopHostMove s { s with pullB := b, pullChg := chg, mapBusy := job, hostProg := exchange }
  | sentDirection (hprog : s.hostProg = exchange) (hs : BetweenExchanges s) :
      LoopHostMove s { s with hostProg := exchange.drop 1, txq := [s.lsDirection] }
  | sentOutput (hprog : s.hostProg = exchange.drop 1) (hen : s.seqEn = true) (hidle : s.mapBusy = none)
      (hdir : DirectionInFlight s) :
      LoopHostMove s { s with hostProg := exchange.drop 2, txq := s.txq ++ [s.lsOutput] }
  | received (word : Word) (hprog : s.hostProg = exchange.drop 2) (hen : s.seqEn = true) (hidle : s.mapBusy = none)
      (hpc : s.seqPc = 0) (htxq : s.txq = []) (hrxq : s.rxq = [word]) (hdir : s.pindir = s.lsDirection)
      (hout : s.pinout = s.lsOutput) :
      LoopHostMove s { s with lsInput := word, rxq := [], hostProg := exchange.drop 3 }
  | pushed (hprog : s.hostProg = exchange.drop 3) (hs : BetweenExchanges s) :
      LoopHostMove s { s with inBuf := some (snapshotInput s), hostProg := [] }

/-- A write of PULL_A with MAP idle, the flag and the job aside (R214). -/
theorem exec_pullAWr_idle (hidle : s.mapBusy = none) (w : Word) :
    ∃ chg job, exec (.pullAWr w) s = .next { s with pullA := w, pullChg := chg, mapBusy := job } := by
  by_cases hw : w = s.pullA
  · subst hw
    exact ⟨_, _, exec_pullAWr_equal hidle⟩
  · exact ⟨_, _, exec_pullAWr_changed hidle hw⟩

theorem exec_pullBWr_idle (hidle : s.mapBusy = none) (w : Word) :
    ∃ chg job, exec (.pullBWr w) s = .next { s with pullB := w, pullChg := chg, mapBusy := job } := by
  by_cases hw : w = s.pullB
  · subst hw
    exact ⟨_, _, exec_pullBWr_equal hidle⟩
  · exact ⟨_, _, exec_pullBWr_changed hidle hw⟩

/-- TXQ holds at least one word (R10), so a `send` to an empty one does not hold. -/
theorem length_ne_txqDepth_of_nil (h : s.txq = []) : s.txq.length ≠ txqDepth s := by
  simp [h, txqDepth]

theorem hostOp_tryPullOutput_none {rest : List HostOp} (h : pulledReport s = none) :
    hostOp .tryPullOutput rest s = .next { s with usbOut := none, hostProg := rest } := by
  simp only [hostOp, h]

theorem hostOp_tryPullOutput_some {rest : List HostOp} {b : Vector Byte 16} (h : pulledReport s = some b) :
    hostOp .tryPullOutput rest s = .next { s with usbOut := none, hostProg := .applyReport b :: rest } := by
  simp only [hostOp, h]

/-- HOST before its first `send` of the iteration. -/
theorem loop_hostStep_beforeSend (hen : s.seqEn = true) (hwait : SeqWaiting s) (h : HostBeforeSend s) :
    ∃ t, hostStep s = .next t ∧ LoopHostMove s t := by
  rcases h with ⟨hidle, hprog | hprog | ⟨b, hprog⟩ | ⟨a, b, hprog⟩⟩ | ⟨b, hprog⟩ | hprog
  · exact ⟨_, hostStep_top hprog, .began hprog ⟨hen, hidle, hwait⟩⟩
  · rw [hostStep_cons hprog]
    cases hrep : pulledReport s with
    | none => exact ⟨_, hostOp_tryPullOutput_none hrep, .noReport hprog ⟨hen, hidle, hwait⟩⟩
    | some b => exact ⟨_, hostOp_tryPullOutput_some hrep, .gotReport b hprog ⟨hen, hidle, hwait⟩⟩
  · rw [hostStep_cons hprog]
    exact ⟨_, rfl, .appliedReport b _ _ _ _ hprog ⟨hen, hidle, hwait⟩⟩
  · obtain ⟨chg, job, hexec⟩ := exec_pullAWr_idle hidle a
    exact ⟨_, (hostStep_cons hprog).trans (hostRun_idle hidle hexec), .wrotePullA a b chg job hprog ⟨hen, hidle, hwait⟩⟩
  · by_cases hidle : s.mapBusy = none
    · obtain ⟨chg, job, hexec⟩ := exec_pullBWr_idle hidle b
      exact ⟨_, (hostStep_cons hprog).trans (hostRun_idle hidle hexec), .wrotePullB b chg job hprog ⟨hen, hidle, hwait⟩⟩
    · exact ⟨_, (hostStep_cons hprog).trans (hostRun_busy rfl hidle), .held (.inl hidle) (by simp [hprog])⟩
  · have ⟨_, htxq, _⟩ := hwait
    by_cases hidle : s.mapBusy = none
    · have hsend := hostOp_send_room (v := .var .lsDirection) (rest := exchange.drop 1) hidle
        (length_ne_txqDepth_of_nil htxq)
      rw [htxq] at hsend
      exact ⟨_, (hostStep_cons hprog).trans hsend, .sentDirection hprog ⟨hen, hidle, hwait⟩⟩
    · exact ⟨_, (hostStep_cons hprog).trans (hostOp_send_hold (.inl hidle)),
        .held (.inl hidle) (by simp [hprog, exchange, sendPair])⟩

/-- Every HOST step of the loop is one of its moves (R265). -/
theorem loop_hostStep (h : LoopInv s) : ∃ t, hostStep s = .next t ∧ LoopHostMove s t := by
  rcases h.phase with ⟨hprog, -, hidle, hwait⟩ | ⟨hen, ⟨hbefore, hwait⟩ | ⟨hprog, hidle, hdir⟩ |
    ⟨hprog, hidle, hpair⟩ | ⟨hprog, hidle, hwait, -⟩⟩
  case inl =>
    exact ⟨_, (hostStep_cons hprog).trans (hostRun_idle hidle (exec_ctrlWr_one hidle)), .started hprog hidle hwait⟩
  case inr.inl => exact loop_hostStep_beforeSend hen hwait hbefore
  case inr.inr.inl =>
    by_cases hfull : s.txq.length = txqDepth s
    · have htxq : s.txq ≠ [] := fun hnil => length_ne_txqDepth_of_nil hnil hfull
      exact ⟨_, (hostStep_cons hprog).trans (hostOp_send_hold (.inr hfull)),
        .held (.inr (.inl ⟨hprog, htxq⟩)) (by simp [hprog, exchange, sendPair])⟩
    · exact ⟨_, (hostStep_cons hprog).trans (hostOp_send_room hidle hfull), .sentOutput hprog hen hidle hdir⟩
  case inr.inr.inr.inl =>
    have hsampled := hpair
    obtain ⟨hrxq, -⟩ | ⟨hpc, htxq, hlen, hdir, hout⟩ := hsampled
    · exact ⟨_, (hostStep_cons hprog).trans (hostOp_recv_hold (.inr hrxq)),
        .held (.inr (.inr ⟨hprog, hpair, hrxq⟩)) (by simp [hprog, exchange, sendPair])⟩
    · obtain ⟨word, hrxq⟩ := List.length_eq_one_iff.mp hlen
      exact ⟨_, (hostStep_cons hprog).trans (hostOp_recv_cons hidle hrxq),
        .received word hprog hen hidle hpc htxq hrxq hdir hout⟩
  case inr.inr.inr.inr => exact ⟨_, (hostStep_cons hprog).trans rfl, .pushed hprog ⟨hen, hidle, hwait⟩⟩

theorem LoopHostMove.loopInv (hm : LoopHostMove s t) (h : LoopInv s) : LoopInv t := by
  cases hm with
  | held => exact h
  | started hprog hidle hwait =>
    exact { h with phase := .inr ⟨rfl, .inl ⟨.inl ⟨hidle, .inl rfl⟩, hwait⟩⟩ }
  | began hprog hs =>
    exact { h with phase := .inr ⟨hs.enabled, .inl ⟨.inl ⟨hs.idle, .inr (.inl rfl)⟩, hs.waiting⟩⟩ }
  | noReport hprog hs =>
    exact { h with phase := .inr ⟨hs.enabled, .inl ⟨.inr (.inr rfl), hs.waiting⟩⟩ }
  | gotReport b hprog hs =>
    exact { h with phase := .inr ⟨hs.enabled, .inl ⟨.inl ⟨hs.idle, .inr (.inr (.inl ⟨b, rfl⟩))⟩, hs.waiting⟩⟩ }
  | appliedReport b d o a c hprog hs =>
    exact { h with phase := .inr ⟨hs.enabled, .inl ⟨.inl ⟨hs.idle, .inr (.inr (.inr ⟨a, c, rfl⟩))⟩, hs.waiting⟩⟩ }
  | wrotePullA a b chg job hprog hs =>
    exact { h with phase := .inr ⟨hs.enabled, .inl ⟨.inr (.inl ⟨b, rfl⟩), hs.waiting⟩⟩ }
  | wrotePullB b chg job hprog hs =>
    exact { h with phase := .inr ⟨hs.enabled, .inl ⟨.inr (.inr rfl), hs.waiting⟩⟩ }
  | sentDirection hprog hs =>
    obtain ⟨hpc, -, hrxq⟩ := hs.waiting
    exact { h with phase := .inr ⟨hs.enabled, .inr (.inl ⟨rfl, hs.idle, hrxq, .inl ⟨hpc, rfl⟩⟩)⟩ }
  | sentOutput hprog hen hidle hdir =>
    refine { h with phase := .inr ⟨hen, .inr (.inr (.inl ⟨rfl, hidle, ?_⟩))⟩ }
    obtain ⟨hrxq, ⟨hpc, htxq⟩ | ⟨hpc, htxq, hosr⟩ | ⟨hpc, htxq, hd⟩⟩ := hdir
    · exact .inl ⟨hrxq, .inl ⟨hpc, by simp [htxq]⟩⟩
    · exact .inl ⟨hrxq, .inr (.inl ⟨hpc, by simp [htxq], hosr⟩)⟩
    · exact .inl ⟨hrxq, .inr (.inr (.inl ⟨hpc, by simp [htxq], hd⟩))⟩
  | received word hprog hen hidle hpc htxq hrxq hdir hout =>
    exact { h with phase := .inr ⟨hen, .inr (.inr (.inr ⟨rfl, hidle, ⟨hpc, htxq, rfl⟩, hdir, hout⟩))⟩ }
  | pushed hprog hs =>
    exact { h with phase := .inr ⟨hs.enabled, .inl ⟨.inl ⟨hs.idle, .inl rfl⟩, hs.waiting⟩⟩ }

/-! ### MAP, ENV and the turns in the loop -/

theorem loopInv_with_pins (h : LoopInv s) (pads : PinMap PullMode) (ext : PinMap Drive) (level : PinMap Bool)
    (draws : Nat) : LoopInv { s with padPull := pads, ext := ext, level := level, draws := draws } :=
  { h with }

/-- Only before the first `send` does a job run, and there the loop does not ask which (R267). -/
theorem loopInv_with_job (h : LoopInv s) (hbusy : s.mapBusy ≠ none) (job : Option MapJob) :
    LoopInv { s with mapBusy := job } := by
  rcases h.phase with ⟨-, -, hidle, -⟩ | ⟨hen, ⟨⟨hidle, -⟩ | hprog, hwait⟩ | ⟨-, hidle, -⟩ | ⟨-, hidle, -⟩ |
    ⟨-, hidle, -⟩⟩
  case inr.inl.inr => exact { h with phase := .inr ⟨hen, .inl ⟨.inr hprog, hwait⟩⟩ }
  all_goals exact absurd hidle hbusy

theorem loopInv_mapStep (h : LoopInv s) : LoopInv (mapStep s) := by
  cases hbusy : s.mapBusy with
  | none => rwa [mapStep_idle hbusy]
  | some job =>
    rw [mapStep_busy hbusy, applyIndex_frame]
    exact loopInv_with_pins (loopInv_with_job h (by simp [hbusy]) (nextJob job)) _ s.ext _ _

theorem loopInv_envStep (e : EnvEvent) (h : LoopInv s) : LoopInv (envStep e s) := by
  cases e with
  | drive change => exact loopInv_with_pins h s.padPull _ _ _
  | deliver packet => exact { h with }
  | fetch => exact { h with }

theorem loopInv_tookTurn (h : LoopInv s) : LoopInv (tookTurn s) := by
  unfold tookTurn
  split <;> exact { h with }

theorem loopInv_agentStep (turn : Turn) (h : LoopInv s) : ∃ t, agentStep turn s = .next t ∧ LoopInv t := by
  cases turn with
  | seq => exact loopInv_seqStep h
  | map => exact ⟨_, rfl, loopInv_mapStep h⟩
  | host =>
    obtain ⟨t, ht, hm⟩ := loop_hostStep h
    exact ⟨t, ht, hm.loopInv h⟩
  | env e => exact ⟨_, rfl, loopInv_envStep e h⟩

theorem loopInv_step (h : LoopInv s) : ∃ t, step s = .next t ∧ LoopInv t :=
  loopInv_agentStep (turnNow s) (loopInv_tookTurn h)

end Sys2Proof.Machine
end

section
/-! What follows from the loop's invariant: the lengths of the queues (R267), the sample of each pair (R268, R269), and
that the loop never stops iterating (R266, R371). -/

namespace Sys2Proof.Machine

open Sys2Proof.Safety

variable {s t : State}

/-! ### The queues along a run -/

theorem loopInv_run (h : LoopInv s) (n : Nat) : ∃ t, Host.Core.run core n s = .next t ∧ LoopInv t := by
  induction n generalizing s with
  | zero => exact ⟨s, rfl, h⟩
  | succ n ih =>
    obtain ⟨u, hu, hinv⟩ := loopInv_step h
    obtain ⟨t, ht, hinv'⟩ := ih hinv
    exact ⟨t, (run_succ n hu).trans ht, hinv'⟩

theorem directionInFlight_lengths (h : DirectionInFlight s) : s.txq.length ≤ 1 ∧ s.rxq = [] := by
  obtain ⟨hrxq, ⟨-, htxq⟩ | ⟨-, htxq, -⟩ | ⟨-, htxq, -⟩⟩ := h <;> simp [htxq, hrxq]

theorem pairInFlight_lengths (h : PairInFlight s) : s.txq.length ≤ 2 ∧ s.rxq.length ≤ 1 := by
  obtain ⟨hrxq, ⟨-, htxq⟩ | ⟨-, htxq, -⟩ | ⟨-, htxq, -⟩ | ⟨-, htxq, -⟩ | ⟨-, htxq, -⟩⟩ | ⟨-, htxq, hrxq, -⟩ := h <;>
    simp [htxq, hrxq]

theorem loopInv_lengths (h : LoopInv s) : s.txq.length ≤ 2 ∧ s.rxq.length ≤ 1 := by
  have waits (hwait : SeqWaiting s) : s.txq.length ≤ 2 ∧ s.rxq.length ≤ 1 := by
    obtain ⟨-, htxq, hrxq⟩ := hwait
    simp [htxq, hrxq]
  rcases h.phase with ⟨-, -, -, hwait⟩ | ⟨-, ⟨-, hwait⟩ | ⟨-, -, hdir⟩ | ⟨-, -, hpair⟩ | ⟨-, -, hwait, -⟩⟩
  case inl | inr.inl | inr.inr.inr.inr => exact waits hwait
  case inr.inr.inl =>
    obtain ⟨htxq, hrxq⟩ := directionInFlight_lengths hdir
    exact ⟨by omega, by simp [hrxq]⟩
  case inr.inr.inr.inl => exact pairInFlight_lengths hpair

/-- At the top of an iteration SEQ waits and MAP is idle (R265). -/
theorem loopInv_top (h : LoopInv s) (hprog : s.hostProg = []) : SeqWaiting s ∧ s.mapBusy = none := by
  rcases h.phase with ⟨hplace, -⟩ | ⟨-, ⟨⟨hidle, -⟩ | ⟨b, hplace⟩ | hplace, hwait⟩ | ⟨hplace, -⟩ | ⟨hplace, -⟩ |
    ⟨hplace, -⟩⟩
  case inr.inl.inl => exact ⟨hwait, hidle⟩
  all_goals simp [hprog, bootProg, start, exchange, sendPair] at hplace

/-- While a reconfiguration runs SEQ waits (R267). -/
theorem loopInv_busy (h : LoopInv s) (hbusy : s.mapBusy ≠ none) : SeqWaiting s := by
  rcases h.phase with ⟨-, -, -, hwait⟩ | ⟨-, ⟨-, hwait⟩ | ⟨-, hidle, -⟩ | ⟨-, hidle, -⟩ | ⟨-, hidle, -⟩⟩
  case inl | inr.inl => exact hwait
  all_goals exact absurd hidle hbusy

/-! ### The sample of a pair -/

/-- Where SEQ is about to append the sample, both words of the iteration are applied and RXQ is empty (R268). -/
theorem loopInv_at_push (h : LoopInv s) (hpc : s.seqPc = 5) :
    s.rxq = [] ∧ s.pindir = s.lsDirection ∧ s.pinout = s.lsOutput := by
  rcases h.phase with ⟨-, -, -, hpc', -⟩ | ⟨-, ⟨-, hpc', -⟩ | ⟨-, -, hdir⟩ | ⟨-, -, hpair⟩ | ⟨-, -, ⟨hpc', -⟩, -⟩⟩
  case inl | inr.inl | inr.inr.inr.inr => simp [hpc] at hpc'
  case inr.inr.inl => obtain ⟨-, ⟨hpc', -⟩ | ⟨hpc', -⟩ | ⟨hpc', -⟩⟩ := hdir <;> simp [hpc] at hpc'
  case inr.inr.inr.inl =>
    obtain ⟨hrxq, ⟨hpc', -⟩ | ⟨hpc', -⟩ | ⟨hpc', -⟩ | ⟨hpc', -⟩ | ⟨-, -, hdir, hout⟩⟩ | ⟨hpc', -⟩ := hpair
    case inl.inr.inr.inr.inr => exact ⟨hrxq, hdir, hout⟩
    all_goals simp [hpc] at hpc'

/-- The sample of a pass with no pin driven reads back the words on the pins (R147, R151). -/
theorem readsBack_sample (h : Undriven s) :
    ReadsBack s.pindir s.pinout (sampleWord (refreshAll s).level (drawNow s)) := by
  intro k hdir
  rw [sampleWord_physPin, refreshAll_level, resolvePin_output s _ k hdir (h k)]

theorem programOp_pull_next_ne_push : ∀ pc : BitVec 3, programOp pc = .pull → pc + 1 ≠ 5 := by
  decide

theorem programOp_push : ∀ pc : BitVec 3, pc.toNat ≤ 5 → programOp pc = .push → pc = 5 := by
  decide

theorem seqStep_keeps_readbackInv (h : LoopInv s) (hr : ReadbackInv s) (hstep : seqStep s = .next t) :
    ReadbackInv t := by
  have f := seqStep_frame hstep
  have undriven : Undriven t := fun k => f.ext ▸ hr.undriven k
  have received : t.hostProg = exchange.drop 3 ∨ t.hostProg = [] ∨ t.hostProg = bootProg →
      ReadsBack t.lsDirection t.lsOutput t.lsInput := by
    rw [f.hostProg, f.lsDirection, f.lsOutput, f.lsInput]
    exact hr.received
  have queued (hrxq : t.rxq = s.rxq) : ∀ w, t.rxq = [w] → ReadsBack t.lsDirection t.lsOutput w := by
    rw [hrxq, f.lsDirection, f.lsOutput]
    exact hr.queued
  rcases seqStep_program_cases h.prog_eq hstep with ⟨-, rfl⟩ | ⟨hle, hexec⟩
  · exact hr
  rcases exec_micro_cases (isAccess_programOp _) hexec with rfl | ⟨hop, word, rest, -, rfl⟩ | ⟨-, rfl⟩ | ⟨-, rfl⟩ |
    ⟨-, rfl⟩ | ⟨hop, -, rfl⟩
  · exact hr
  · exact ⟨undriven, fun hpc => absurd hpc (programOp_pull_next_ne_push _ hop), queued rfl, received⟩
  · exact ⟨undriven, by simp, queued (by simp), received⟩
  · exact ⟨undriven, by simp, queued (by simp), received⟩
  · exact ⟨undriven, fun _ => by simpa using readsBack_sample hr.undriven, queued (by simp), received⟩
  · have hpc := programOp_push _ hle hop
    obtain ⟨hrxq, hdir, hout⟩ := loopInv_at_push h hpc
    refine ⟨undriven, by simp, fun w hw => ?_, received⟩
    obtain rfl : s.isr = w := by simpa [hrxq] using hw
    have hlatched := hr.latched hpc
    rwa [hdir, hout] at hlatched

theorem LoopHostMove.readbackInv (hm : LoopHostMove s t) (hr : ReadbackInv s) : ReadbackInv t := by
  have none_queued {d o : Word} (hwait : SeqWaiting s) : ∀ w, s.rxq = [w] → ReadsBack d o w := by
    obtain ⟨-, -, hrxq⟩ := hwait
    simp [hrxq]
  cases hm with
  | held => exact hr
  | started hprog hidle hwait =>
    exact ⟨hr.undriven, hr.latched, hr.queued, fun _ => hr.received (.inr (.inr hprog))⟩
  | received word hprog hen hidle hpc htxq hrxq hdir hout =>
    exact ⟨hr.undriven, hr.latched, by simp, fun _ => hr.queued word hrxq⟩
  | pushed hprog hs => exact ⟨hr.undriven, hr.latched, hr.queued, fun _ => hr.received (.inl hprog)⟩
  | appliedReport b d o a c hprog hs =>
    exact ⟨hr.undriven, hr.latched, none_queued hs.waiting, by simp [setPulls, exchange, sendPair, bootProg, start]⟩
  | _ =>
    exact ⟨hr.undriven, hr.latched, hr.queued, by
      simp [exchange, sendPair, bootProg, start, wrPullB, wrCtrl]⟩

theorem readbackInv_with_levels (hr : ReadbackInv s) (pads : PinMap PullMode) (level : PinMap Bool) (draws : Nat)
    (job : Option MapJob) :
    ReadbackInv { s with padPull := pads, level := level, draws := draws, mapBusy := job } :=
  { hr with }

theorem mapStep_keeps_readbackInv (hr : ReadbackInv s) : ReadbackInv (mapStep s) := by
  cases hbusy : s.mapBusy with
  | none => rwa [mapStep_idle hbusy]
  | some job =>
    rw [mapStep_busy hbusy, applyIndex_frame]
    exact readbackInv_with_levels hr _ _ _ _

theorem envStep_keeps_readbackInv {e : EnvEvent} (he : ∀ change, e ≠ .drive change) (hr : ReadbackInv s) :
    ReadbackInv (envStep e s) := by
  cases e with
  | drive change => exact absurd rfl (he change)
  | deliver packet => exact { hr with }
  | fetch => exact { hr with }

theorem tookTurn_keeps_readbackInv (hr : ReadbackInv s) : ReadbackInv (tookTurn s) := by
  unfold tookTurn
  split <;> exact { hr with }

theorem agentStep_keeps_readbackInv {turn : Turn} (h : LoopInv s) (hr : ReadbackInv s)
    (hturn : ∀ change, turn ≠ .env (.drive change)) (hstep : agentStep turn s = .next t) : ReadbackInv t := by
  cases turn with
  | seq => exact seqStep_keeps_readbackInv h hr hstep
  | map => cases hstep; exact mapStep_keeps_readbackInv hr
  | host =>
    obtain ⟨u, hu, hm⟩ := loop_hostStep h
    obtain rfl : u = t := by simpa [agentStep, hu] using hstep
    exact hm.readbackInv hr
  | env e =>
    cases hstep
    exact envStep_keeps_readbackInv (fun change he => hturn change (congrArg _ he)) hr

/-! ### The way to the next iteration -/

/-- The micro-operations from a step of the program to the next one at which SEQ needs a word (R103). -/
def stepsToPull (pc : BitVec 3) : Nat :=
  match pc.toNat with
  | 1 | 5 => 1
  | 3 => 3
  | 4 => 2
  | _ => 0

/-- A bound on the SEQ steps before SEQ waits for a word: at most six for each word in TXQ. -/
def seqWork (s : State) : Nat := 6 * s.txq.length + stepsToPull s.seqPc

/-- The MAP steps that a running reconfiguration still takes. -/
def mapWork (s : State) : Nat :=
  match s.mapBusy with
  | none => 0
  | some job => 16 - job.index.val

/-- A bound on the HOST steps an operation stands for: a packet may be a report, and a report is two pull writes. -/
def opWork (op : HostOp) : Nat :=
  match op with
  | .tryPullOutput => 4
  | .applyReport _ => 3
  | _ => 1

/-- A bound on the HOST steps to the top of the loop. -/
def hostWork (s : State) : Nat := (s.hostProg.map opWork).sum

/-- What is left to do before the top of the loop. A HOST step outweighs the work that it can give to SEQ and MAP. -/
def loopWork (s : State) : Nat := 24 * hostWork s + mapWork s + seqWork s

/-- The agent whose step the loop waits for: MAP while it runs, then SEQ until it waits, then HOST. -/
def awaited (s : State) : Turn :=
  if mapWork s ≠ 0 then .map else if seqWork s ≠ 0 then .seq else .host

theorem awaited_mem (s : State) : awaited s ∈ [Turn.seq, .map, .host] := by
  unfold awaited
  split
  · simp
  · split <;> simp

theorem mapWork_idle (h : s.mapBusy = none) : mapWork s = 0 := by
  simp [mapWork, h]

theorem mapWork_le (s : State) : mapWork s ≤ 16 := by
  unfold mapWork
  split <;> omega

theorem mapWork_ne_zero (h : s.mapBusy ≠ none) : mapWork s ≠ 0 := by
  obtain ⟨job, hjob⟩ := Option.ne_none_iff_exists'.mp h
  simp only [mapWork, hjob]
  omega

theorem mapWork_nextJob_lt (job : MapJob) :
    mapWork { s with mapBusy := nextJob job } < mapWork { s with mapBusy := some job } := by
  by_cases hlast : job.index = 15
  · simp [mapWork, nextJob, hlast]
  · simp only [mapWork, nextJob, if_neg hlast]
    omega

theorem seqWork_waiting (h : SeqWaiting s) : seqWork s = 0 := by
  obtain ⟨hpc, htxq, -⟩ := h
  simp [seqWork, hpc, htxq, stepsToPull]

theorem seqWork_ne_zero_of_txq (h : s.txq ≠ []) : seqWork s ≠ 0 := by
  have hpos := List.length_pos_iff.mpr h
  unfold seqWork
  omega

theorem seqWork_ne_zero_of_pair (h : PairInFlight s) (hrxq : s.rxq = []) : seqWork s ≠ 0 := by
  obtain ⟨-, ⟨-, htxq⟩ | ⟨-, htxq, -⟩ | ⟨-, htxq, -⟩ | ⟨hpc, -⟩ | ⟨hpc | hpc, -⟩⟩ | ⟨-, -, hlen, -⟩ := h
  case inl.inr.inr.inr.inl | inl.inr.inr.inr.inr.inl | inl.inr.inr.inr.inr.inr => simp [seqWork, hpc, stepsToPull]
  case inr => simp [hrxq] at hlen
  all_goals exact seqWork_ne_zero_of_txq (by simp [htxq])

/-- A PULL leaves at most three micro-operations before the next one. -/
theorem stepsToPull_le : ∀ pc : BitVec 3, stepsToPull pc ≤ 3 := by
  decide

theorem stepsToPull_outPindirs : ∀ pc : BitVec 3, programOp pc = .outPindirs → 0 < stepsToPull pc := by
  decide

theorem stepsToPull_outPins : ∀ pc : BitVec 3, programOp pc = .outPins → 2 < stepsToPull pc := by
  decide

theorem stepsToPull_inPins : ∀ pc : BitVec 3, programOp pc = .inPins → 1 < stepsToPull pc := by
  decide

theorem stepsToPull_pull : ∀ pc : BitVec 3, programOp pc = .pull → stepsToPull pc = 0 := by
  decide

/-- A micro-operation of the loop brings SEQ nearer to waiting, but a PULL that finds no word, where SEQ waits. -/
theorem seqWork_exec_programOp (hle : s.seqPc.toNat ≤ 5) (hroom : s.seqPc = 5 → s.rxq = [])
    (h : exec (programOp s.seqPc) s = .next t) : seqWork t < seqWork s ∨ (t = s ∧ seqWork s = 0) := by
  cases hop : programOp s.seqPc with
  | pull =>
    rw [hop] at h
    cases htxq : s.txq with
    | nil =>
      obtain rfl : s = t := by simpa [exec, execPull_nil htxq] using h
      exact .inr ⟨rfl, by simp [seqWork, htxq, stepsToPull_pull _ hop]⟩
    | cons word rest =>
      have hexec : exec .pull s = _ := execPull_cons htxq
      obtain rfl := Host.Outcome.next.inj (hexec.symm.trans h)
      have hnext := stepsToPull_le (s.seqPc + 1)
      exact .inl (by simp only [seqWork, htxq, List.length_cons]; omega)
  | outPindirs =>
    obtain ⟨level, hexec, -⟩ := exec_outPindirs s
    obtain rfl := Host.Outcome.next.inj (hexec.symm.trans (hop ▸ h))
    have hnow := stepsToPull_outPindirs _ hop
    exact .inl (by simp only [seqWork, show stepsToPull 2 = 0 from rfl]; omega)
  | outPins =>
    obtain ⟨level, hexec, -⟩ := exec_outPins s
    obtain rfl := Host.Outcome.next.inj (hexec.symm.trans (hop ▸ h))
    have hnow := stepsToPull_outPins _ hop
    exact .inl (by simp only [seqWork, show stepsToPull 4 = 2 from rfl]; omega)
  | inPins =>
    obtain ⟨level, hexec, -⟩ := exec_inPins s
    obtain rfl := Host.Outcome.next.inj (hexec.symm.trans (hop ▸ h))
    have hnow := stepsToPull_inPins _ hop
    exact .inl (by simp only [seqWork, show stepsToPull 5 = 1 from rfl]; omega)
  | push =>
    have hpc := programOp_push _ hle hop
    have hexec := exec_push_room (s := s) (by simp [hroom hpc])
    obtain rfl := Host.Outcome.next.inj (hexec.symm.trans (hop ▸ h))
    exact .inl (by simp [seqWork, hpc, stepsToPull])
  | _ => exact absurd (isAccess_programOp s.seqPc) (by simp [hop, isAccess])

theorem seqWork_seqStep (h : LoopInv s) (hstep : seqStep s = .next t) :
    seqWork t < seqWork s ∨ (t = s ∧ seqWork s = 0) := by
  have waits (hwait : SeqWaiting s) : t = s ∧ seqWork s = 0 :=
    ⟨Host.Outcome.next.inj (hstep.symm.trans (seqStep_waiting h.prog_eq hwait)), seqWork_waiting hwait⟩
  rcases h.phase with ⟨-, -, -, hwait⟩ | ⟨hen, hphase⟩
  · exact .inr (waits hwait)
  · have hs := seqRuns_of_loopInv h hen
    rcases seqStep_program_cases h.prog_eq hstep with ⟨hdisabled, -⟩ | ⟨hle, hexec⟩
    · simp [seqEnabled, hs.enabled, hs.unrefused] at hdisabled
    · exact seqWork_exec_programOp hle (fun hpc => (loopInv_at_push h hpc).1) hexec

/-- A HOST step that goes on in the program lessens the work, if it gives SEQ at most one word. -/
theorem loopWork_lt (hhost : hostWork t < hostWork s) (hseq : seqWork t ≤ seqWork s + 6) : loopWork t < loopWork s := by
  have hmap := mapWork_le t
  unfold loopWork
  omega

/-- A HOST move below the top of the loop either lessens the work or waits for MAP or SEQ. -/
theorem LoopHostMove.work (hm : LoopHostMove s t) (htop : s.hostProg ≠ []) :
    loopWork t < loopWork s ∨ (t = s ∧ awaited s ≠ .host) := by
  cases hm with
  | held hheld _ =>
    have hwork : mapWork s ≠ 0 ∨ seqWork s ≠ 0 := by
      rcases hheld with hbusy | ⟨-, htxq⟩ | ⟨-, hpair, hrxq⟩
      · exact .inl (mapWork_ne_zero hbusy)
      · exact .inr (seqWork_ne_zero_of_txq htxq)
      · exact .inr (seqWork_ne_zero_of_pair hpair hrxq)
    refine .inr ⟨rfl, ?_⟩
    unfold awaited
    split
    · simp
    · rename_i hmap
      simp [hwork.resolve_left hmap]
  | began hprog hs => exact absurd hprog htop
  | appliedReport b d o a c hprog hs =>
    exact .inl (loopWork_lt (by simp [hostWork, hprog, setPulls, wrPullA, wrPullB, opWork]; omega) (by simp [seqWork]))
  | wrotePullA a b chg job hprog hs =>
    exact .inl (loopWork_lt (by simp [hostWork, hprog, setPulls, wrPullA, wrPullB, opWork]) (by simp [seqWork]))
  | sentDirection hprog hs =>
    exact .inl (loopWork_lt (by simp [hostWork, hprog, exchange, sendPair, opWork])
      (by simp only [seqWork, List.length_singleton]; omega))
  | sentOutput hprog hen hidle hdir =>
    exact .inl (loopWork_lt (by simp [hostWork, hprog, exchange, sendPair, opWork])
      (by simp only [seqWork, List.length_append, List.length_singleton]; omega))
  | started hprog | noReport hprog | gotReport _ hprog | wrotePullB _ _ _ hprog | received _ hprog | pushed hprog =>
    exact .inl (loopWork_lt
      (by simp [hostWork, hprog, bootProg, start, wrCtrl, wrPullB, exchange, sendPair, opWork]) (by simp [seqWork]))

/-- A step below the top of the loop lessens the work; or it changes none of it, nor HOST's place, and the agent that
the loop waits for has not had its turn. -/
theorem loopWork_agentStep {turn : Turn} (h : LoopInv s) (htop : s.hostProg ≠ []) (hstep : agentStep turn s = .next t) :
    loopWork t < loopWork s ∨
      (turn ≠ awaited s ∧ t.hostProg = s.hostProg ∧ mapWork t = mapWork s ∧ seqWork t = seqWork s) := by
  cases turn with
  | seq =>
    have f := seqStep_frame hstep
    have hmap : mapWork t = mapWork s := by simp only [mapWork, f.mapBusy]
    rcases seqWork_seqStep h hstep with hlt | ⟨rfl, hzero⟩
    · refine .inl ?_
      have hhost : hostWork t = hostWork s := by simp only [hostWork, f.hostProg]
      unfold loopWork
      omega
    · refine .inr ⟨?_, rfl, rfl, rfl⟩
      unfold awaited
      split <;> simp [hzero]
  | map =>
    cases hstep
    cases hbusy : s.mapBusy with
    | none =>
      rw [mapStep_idle hbusy]
      refine .inr ⟨?_, rfl, rfl, rfl⟩
      simp only [awaited, mapWork_idle hbusy, ne_eq, not_true, if_false]
      split <;> simp
    | some job =>
      refine .inl ?_
      have hmap := mapWork_nextJob_lt (s := s) job
      simp only [mapWork] at hmap
      simp only [loopWork, hostWork, seqWork, mapWork, mapStep_busy hbusy, hbusy, applyIndex_hostProg, applyIndex_txq,
        applyIndex_seqPc]
      omega
  | host =>
    obtain ⟨u, hu, hm⟩ := loop_hostStep h
    obtain rfl := Host.Outcome.next.inj (hu.symm.trans hstep)
    rcases hm.work htop with hlt | ⟨rfl, hne⟩
    · exact .inl hlt
    · exact .inr ⟨hne.symm, rfl, rfl, rfl⟩
  | env e =>
    cases hstep
    refine .inr ⟨fun he => ?_, by simp, by simp [mapWork], by simp [seqWork]⟩
    have hmem := awaited_mem s
    simp [← he] at hmem

@[simp] theorem mapWork_tookTurn (s : State) : mapWork (tookTurn s) = mapWork s := by simp [mapWork]
@[simp] theorem seqWork_tookTurn (s : State) : seqWork (tookTurn s) = seqWork s := by simp [seqWork]
@[simp] theorem loopWork_tookTurn (s : State) : loopWork (tookTurn s) = loopWork s := by simp [loopWork, hostWork]
@[simp] theorem awaited_tookTurn (s : State) : awaited (tookTurn s) = awaited s := by simp [awaited]

theorem loopWork_step (h : LoopInv s) (htop : s.hostProg ≠ []) (hstep : step s = .next t) :
    loopWork t < loopWork s ∨
      (turnNow s ≠ awaited s ∧ t.hostProg = s.hostProg ∧ mapWork t = mapWork s ∧ seqWork t = seqWork s) := by
  simpa using loopWork_agentStep (loopInv_tookTurn h) (by simpa using htop) hstep

/-- From every state of the loop, under every fair order of turns, HOST comes to the top (R266, R371). -/
theorem loop_reaches_top (h : LoopInv s) :
    ∃ (k : Nat) (t : State), Host.Core.run core k s = .next t ∧ LoopInv t ∧ t.hostProg = [] := by
  induction hn : loopWork s using Nat.strong_induction_on generalizing s with
  | _ n ih =>
    by_cases htop : s.hostProg = []
    · exact ⟨0, s, rfl, h, htop⟩
    obtain ⟨k, u, hk, hu, hlt⟩ := reaches (awaited_mem s)
      (P := fun u => LoopInv u ∧ u.hostProg = s.hostProg ∧ mapWork u = mapWork s ∧ seqWork u = seqWork s)
      (Q := fun u => LoopInv u ∧ loopWork u < loopWork s)
      (fun u ⟨hu, hprog, hmap, hseq⟩ => by
        obtain ⟨v, hv, hinv⟩ := loopInv_step hu
        have hwork : loopWork u = loopWork s := by simp only [loopWork, hostWork, hprog, hmap, hseq]
        have hwait : awaited u = awaited s := by simp only [awaited, hmap, hseq]
        refine ⟨v, hv, ?_⟩
        rcases loopWork_step hu (hprog ▸ htop) hv with hlt | ⟨hne, hprog', hmap', hseq'⟩
        · exact .inl ⟨hinv, hwork ▸ hlt⟩
        · exact .inr ⟨⟨hinv, hprog'.trans hprog, hmap'.trans hmap, hseq'.trans hseq⟩, hwait ▸ hne⟩)
      ⟨h, rfl, rfl, rfl⟩
    obtain ⟨k', t, hk', ht⟩ := ih _ (hn ▸ hlt) hu rfl
    exact ⟨k + k', t, (run_add k k' hk).trans hk', ht⟩

/-- At the top HOST waits for nothing but its turn. -/
theorem loop_reaches_host_at_top (h : LoopInv s) (htop : s.hostProg = []) :
    ∃ (k : Nat) (t : State), Host.Core.run core k s = .next t ∧ LoopInv t ∧ t.hostProg = [] ∧ turnNow t = .host := by
  obtain ⟨k, t, hk, hfalse | ⟨⟨hinv, hprog⟩, hturn⟩⟩ := reaches_turn (agent := .host) (by simp)
    (P := fun u => LoopInv u ∧ u.hostProg = []) (Q := fun _ => False)
    (fun u ⟨hu, hprog⟩ hne => by
      obtain ⟨v, hv, hinv⟩ := loopInv_step hu
      exact ⟨v, hv, .inl ⟨hinv, (step_hostProg_of_ne_host hv hne).trans hprog⟩⟩)
    ⟨h, htop⟩
  · exact hfalse.elim
  · exact ⟨k, t, hk, hinv, hprog, hturn⟩

theorem reset_loopInv : LoopInv State.reset where
  clean := ⟨rfl, rfl⟩
  prog_eq := rfl
  phase := .inl ⟨rfl, rfl, rfl, rfl, rfl, rfl⟩

end Sys2Proof.Machine

namespace Sys2Proof.Proofs

open Sys2Proof.Machine

/-- Settles O32: the loop begins at its boot access, with SEQ stopped at step 0. -/
theorem loopInvAtReset : Obligations.LoopInvAtReset := reset_loopInv

/-- Settles O33: SEQ moves within a phase, HOST from one to the next, MAP and ENV in none. -/
theorem stepKeepsLoopInv : Obligations.StepKeepsLoopInv := fun _ h => loopInv_step h

/-- Settles O34, by induction on the steps of the run; each bound is read off the phase that the run has come to. -/
theorem loopRunsKeepQueuesShort : Obligations.LoopRunsKeepQueuesShort := by
  intro s n h
  obtain ⟨t, hrun, hinv⟩ := loopInv_run h n
  obtain ⟨htxq, hrxq⟩ := loopInv_lengths hinv
  refine ⟨t, hrun, hinv.clean, htxq, hrxq, fun htop => ?_, fun hbusy => ?_⟩
  · obtain ⟨⟨hpc, htxq, hrxq⟩, hidle⟩ := loopInv_top hinv htop
    exact ⟨htxq, hrxq, hidle, hpc⟩
  · obtain ⟨hpc, htxq, -⟩ := loopInv_busy hinv hbusy
    exact ⟨htxq, hpc⟩

/-- Settles O35: IN PINS makes the sample read back, and SEQ and HOST carry it on to `LS.input`. -/
theorem loopSamplesReadBackTheirPair : Obligations.LoopSamplesReadBackTheirPair := fun _ _ h hr hturn hstep =>
  agentStep_keeps_readbackInv (loopInv_tookTurn h) (tookTurn_keeps_readbackInv hr) hturn hstep

/-- Settles O60: the loop's work runs out at the top, where HOST's next turn begins an iteration. -/
theorem loopKeepsIterating : Obligations.LoopKeepsIterating := by
  intro s h
  obtain ⟨j, u, hj, hu, htop⟩ := loop_reaches_top h
  obtain ⟨k, v, hk, hv, hprog, hturn⟩ := loop_reaches_host_at_top hu htop
  obtain ⟨w, hw, hinv⟩ := loopInv_step hv
  have hbegin := (step_host hturn).trans (hostStep_top ((tookTurn_hostProg v).trans hprog))
  obtain rfl := Host.Outcome.next.inj (hw.symm.trans hbegin)
  exact ⟨j + k, v, _, (run_add j k hj).trans hk, hprog, hturn, hbegin, rfl, hinv⟩

end Sys2Proof.Proofs
end

section
/-! Runs of one agent, and progress: a pass of SEQ in loopback (spec/40_sequencer.md R158), a whole reconfiguration
(spec/42_pull_mapper.md R222, R225, R228), and the fairness of the turns (spec/70_reset_and_hazards.md R371). -/

namespace Sys2Proof.Machine

open Sys2Proof.Safety

variable {s t : State}

/-! ### The loopback -/

/-- Words that agree at every physical pin of the PinSet agree under `seqMask` (R11). -/
theorem and_seqMask_eq_of_getLsbD_physPin_eq {v w : Word}
    (h : ∀ k : Pin, v.getLsbD (physPin k) = w.getLsbD (physPin k)) : v &&& seqMask = w &&& seqMask := by
  refine BitVec.eq_of_getLsbD_eq fun p _ => ?_
  simp only [BitVec.getLsbD_and]
  by_cases hpin : ∃ k : Pin, physPin k = p
  · obtain ⟨k, rfl⟩ := hpin
    rw [h k]
  · have hmask : seqMask.getLsbD p = false := by
      rw [← pinAt_isSome_iff_exists_physPin, pinAt_isSome_iff, ← seqMask_getLsbD_iff] at hpin
      exact Bool.eq_false_iff.mpr hpin
    rw [hmask, Bool.and_false, Bool.and_false]

theorem allOnes_getLsbD_physPin : ∀ k : Pin, (0xFFFFFFFF#32).getLsbD (physPin k) = true := by
  decide

/-! ### A whole reconfiguration -/

/-- The job of a group's word with the indices below `m` passed; none once all sixteen are (R48). -/
def jobAt (g : Group) (w : Word) (m : Nat) : Option MapJob :=
  if h : m < 16 then some ⟨g, w, ⟨m, h⟩⟩ else none

theorem nextJob_eq_jobAt (g : Group) (w : Word) (i : Fin 16) : nextJob ⟨g, w, i⟩ = jobAt g w (i.val + 1) := by
  by_cases hlast : i = 15
  · subst hlast
    rfl
  · have hlt : i.val + 1 < 16 := by omega
    have hsucc : i + 1 = ⟨i.val + 1, hlt⟩ := Fin.ext (Fin.val_add_one_of_lt' hlt)
    simp only [nextJob, if_neg hlast, jobAt, dif_pos hlt, hsucc]

/-- A run of MAP alone over the indices from `m` on: every pad of the group from there on gets its code's mode, every
other pad stays, and so does the level of every pin that is not of the group (R222, R225). -/
theorem run_map {g : Group} {w : Word} {later : List Turn} (n : Nat) :
    ∀ {m : Nat} {s : State}, m + n = 16 → s.sched = List.replicate n .map ++ later → s.mapBusy = jobAt g w m →
    ∃ t : State, Host.Core.run core n s = .next t ∧ t.mapBusy = none ∧ t.sched = later ∧
      (∀ (g' : Group) (j : Fin 16) (k : Pin), groupPin g' j = some k →
        t.padPull[k] = if g' = g ∧ m ≤ j.val then decodePull (pullCode w j) else s.padPull[k]) ∧
      (∀ k : Pin, (∀ j, groupPin g j ≠ some k) → t.level[k] = s.level[k]) := by
  induction n with
  | zero =>
    intro m s hm hsched hjob
    refine ⟨s, rfl, hjob.trans (dif_neg (by omega)), hsched, fun g' j k _ => ?_, fun _ _ => rfl⟩
    rw [if_neg (by omega)]
  | succ n ih =>
    intro m s hm hsched hjob
    have hlt : m < 16 := by omega
    rw [jobAt, dif_pos hlt] at hjob
    have hstep := step_map_busy (turnNow_cons hsched) hjob
    rw [tookTurn_cons hsched] at hstep
    obtain ⟨t, hrun, hidle, hlater, hpads, hlevels⟩ :=
      ih (m := m + 1) (s := { applyIndex ⟨g, w, ⟨m, hlt⟩⟩ { s with sched := List.replicate n .map ++ later } with
        mapBusy := nextJob ⟨g, w, ⟨m, hlt⟩⟩ }) (by omega) (by simp) (nextJob_eq_jobAt g w ⟨m, hlt⟩)
    refine ⟨t, (run_succ n hstep).trans hrun, hidle, hlater, fun g' j k hpin => ?_, fun k hother => ?_⟩
    · rw [hpads g' j k hpin]
      dsimp only
      rw [applyIndex_padPull_getElem _ hpin]
      by_cases hg : g' = g
      · by_cases hj : j = ⟨m, hlt⟩
        · simp [hg, hj]
        · have hne : m ≠ j.val := fun e => hj (Fin.ext e.symm)
          have hle : m + 1 ≤ j.val ↔ m ≤ j.val := by omega
          simp [hg, hj, hle]
      · simp [hg]
    · rw [hlevels k hother]
      cases hj : groupPin g ⟨m, hlt⟩ with
      | none => rw [applyIndex_unmapped hj]
      | some j =>
        have hne : k ≠ j := fun e => hother _ (e ▸ hj)
        exact applyIndex_level_other (job := ⟨g, w, ⟨m, hlt⟩⟩) hj hne

/-- Words that agree under the Group B mask have the same code at every mapped index (R225). -/
theorem pullCode_eq_of_and_groupBMask_eq {w w' : Word} (h : w &&& groupBMask = w' &&& groupBMask) {i : Fin 16}
    (hi : mapped .b i = true) : pullCode w i = pullCode w' i := by
  have masked (v : Word) : pullCode (v &&& groupBMask) i = pullCode v i := by
    have hfield := groupBMask_field i
    rw [if_pos hi] at hfield
    rw [pullCode, BitVec.extractLsb'_and, hfield]
    exact BitVec.and_allOnes
  rw [← masked w, h, masked w']

/-! ### Progress of a block whose HOST keeps to the window -/

theorem step_keeps_hostStaysInside (hin : HostStaysInside s) (h : step s = .next t) : HostStaysInside t := by
  intro write addr width x v hmem
  have hbase : blockBase t = blockBase s := by simp [blockBase, step_params h]
  rw [hbase]
  refine hin write addr width x v ?_
  by_cases hturn : turnNow s = .host
  · rw [step_host hturn] at h
    simpa using hostStep_bus_mem h hmem
  · rwa [← step_hostProg_of_ne_host h hturn]

theorem step_inside (h : BlockInv s) (hin : HostStaysInside s) :
    ∃ t, step s = .next t ∧ BlockInv t ∧ HostStaysInside t := by
  obtain ⟨t, ht⟩ | ⟨-, write, addr, width, x, v, hmem, hbase, -⟩ := step_next_or_outside h
  · exact ⟨t, ht, agentStep_keeps_blockInv (tookTurn_keeps_blockInv h) ht, step_keeps_hostStaysInside hin ht⟩
  · exact absurd (hin write addr width x v hmem) (Nat.not_le.mpr hbase)

/-- A step while a reconfiguration runs: MAP brings its end nearer, no other agent puts it off (R220, R228). -/
theorem mapWork_step (hbusy : s.mapBusy ≠ none) (h : step s = .next t) :
    if turnNow s = .map then mapWork t < mapWork s else mapWork t = mapWork s := by
  obtain ⟨job, hjob⟩ := Option.ne_none_iff_exists'.mp hbusy
  have hnext := step_mapBusy h hjob
  split at hnext
  · rw [if_pos ‹_›]
    simpa only [mapWork, hnext, hjob] using mapWork_nextJob_lt (s := s) job
  · rw [if_neg ‹_›]
    simp only [mapWork, hnext, hjob]

/-- In a run that goes on, a reconfiguration ends once MAP has had as many turns as it takes (R228). -/
theorem run_ends_job {later : List Turn} : ∀ {turns : List Turn} {s t : State}, s.sched = turns ++ later →
    mapWork s ≤ turns.count .map → Host.Core.run core turns.length s = .next t →
    ∃ (k : Nat) (u : State), k ≤ turns.length ∧ Host.Core.run core k s = .next u ∧ u.mapBusy = none
  | [], s, _, _, hwork, _ => by
    by_cases hbusy : s.mapBusy = none
    · exact ⟨0, s, le_rfl, rfl, hbusy⟩
    · exact absurd (Nat.le_zero.mp hwork) (mapWork_ne_zero hbusy)
  | turn :: turns, s, t, hsched, hwork, hrun => by
    by_cases hbusy : s.mapBusy = none
    · exact ⟨0, s, Nat.zero_le _, rfl, hbusy⟩
    obtain ⟨v, hstep, hrun⟩ := run_succ_next hrun
    have hsched' : v.sched = turns ++ later :=
      (step_turns hstep).1.trans (congrArg State.sched (tookTurn_cons hsched))
    have hwork' : mapWork v ≤ turns.count .map := by
      have hmap := mapWork_step hbusy hstep
      rw [turnNow_cons hsched] at hmap
      split at hmap
      · rename_i hturn
        rw [hturn, List.count_cons_self] at hwork
        omega
      · rename_i hturn
        rw [List.count_cons_of_ne hturn] at hwork
        omega
    obtain ⟨k, u, hk, hu, hidle⟩ := run_ends_job hsched' hwork' hrun
    exact ⟨k + 1, u, Nat.succ_le_succ hk, (run_succ k hstep).trans hu, hidle⟩

/-- Under every fair order of turns a reconfiguration ends (R228, R371). -/
theorem job_ends (h : BlockInv s) (hin : HostStaysInside s) :
    ∃ (k : Nat) (u : State), Host.Core.run core k s = .next u ∧ u.mapBusy = none := by
  induction hn : mapWork s using Nat.strong_induction_on generalizing s with
  | _ n ih =>
    by_cases hbusy : s.mapBusy = none
    · exact ⟨0, s, rfl, hbusy⟩
    obtain ⟨k, u, hk, hu, huin, hlt⟩ := reaches (agent := .map) (by simp)
      (P := fun u => BlockInv u ∧ HostStaysInside u ∧ u.mapBusy ≠ none ∧ mapWork u = mapWork s)
      (Q := fun u => BlockInv u ∧ HostStaysInside u ∧ mapWork u < mapWork s)
      (fun u ⟨hu, huin, hubusy, huwork⟩ => by
        obtain ⟨v, hstep, hv, hvin⟩ := step_inside hu huin
        have hmap := mapWork_step hubusy hstep
        rw [huwork] at hmap
        refine ⟨v, hstep, ?_⟩
        split at hmap
        · exact .inl ⟨hv, hvin, hmap⟩
        · have hvbusy : v.mapBusy ≠ none := fun hidle =>
            mapWork_ne_zero hbusy (hmap.symm.trans (mapWork_idle hidle))
          exact .inr ⟨⟨hv, hvin, hvbusy, hmap⟩, ‹_›⟩)
      ⟨h, hin, hbusy, rfl⟩
    obtain ⟨k', t, hk', ht⟩ := ih _ (hn ▸ hlt) hu huin rfl
    exact ⟨k + k', t, (run_add k k' hk).trans hk', ht⟩

end Sys2Proof.Machine

namespace Sys2Proof.Proofs

open Sys2Proof.Machine Sys2Proof.Safety

/-- Settles O43: in a pass with every pin an undriven output the level is the output bit, whatever was drawn. -/
theorem loopbackSampleUnderTheMask : Obligations.LoopbackSampleUnderTheMask := by
  intro s rest later hsched hen hrefused hprog hpc htxq hrxq hundriven
  have hroom : s.rxq.length < rxqDepth s := by simp [hrxq, rxqDepth]
  obtain ⟨level, sample, hrun, hsample⟩ := SeqRuns.run_pass ⟨hen, hrefused, hprog⟩ hsched hpc htxq hroom
  have hbits (k : Pin) : sample.getLsbD (physPin k) = (0xAAAAAAAA#32).getLsbD (physPin k) := by
    obtain ⟨hlevel, fresh, hresolve⟩ := hsample k
    rw [hlevel, hresolve, allOnes_getLsbD_physPin, hundriven k]
    rfl
  refine ⟨_, sample, hrun, by simp [hrxq], ?_⟩
  rw [and_seqMask_eq_of_getLsbD_physPin_eq hbits]
  decide

/-- Settles O44: `run_map` from index 0; a pin that is not of the group is of the other one. -/
theorem sixteenMapStepsApplyTheWord : Obligations.SixteenMapStepsApplyTheWord := by
  intro s g w later hsched hjob
  obtain ⟨t, hrun, hidle, hlater, hpads, hlevels⟩ := run_map 16 (m := 0) rfl hsched hjob
  refine ⟨t, hrun, hidle, hlater, fun i k hpin => ?_, fun k hother => ⟨?_, hlevels k hother⟩⟩
  · simpa using hpads g i k hpin
  · obtain ⟨g', j, hpin⟩ := exists_groupPin_eq_some k
    have hne : g' ≠ g := fun e => hother j (e ▸ hpin)
    simpa [hne] using hpads g' j k hpin

/-- Settles O45: the pads after the run depend on the word through the codes of mapped indices alone. -/
theorem unmappedFieldsReachNoPad : Obligations.UnmappedFieldsReachNoPad := by
  intro s s' t t' w w' later later' hsched hsched' hjob hjob' hpads hmask hrun hrun'
  obtain ⟨u, hu, -, -, hupads, -⟩ := run_map 16 (m := 0) rfl hsched hjob
  obtain ⟨u', hu', -, -, hupads', -⟩ := run_map 16 (m := 0) rfl hsched' hjob'
  obtain rfl := Host.Outcome.next.inj (hu.symm.trans hrun)
  obtain rfl := Host.Outcome.next.inj (hu'.symm.trans hrun')
  refine Vector.ext fun n hn => ?_
  obtain ⟨g, j, hpin⟩ := exists_groupPin_eq_some ⟨n, hn⟩
  have hpad := hupads g j ⟨n, hn⟩ hpin
  have hpad' := hupads' g j ⟨n, hn⟩ hpin
  rw [← hpads] at hpad'
  by_cases hg : g = .b
  · subst hg
    rw [pullCode_eq_of_and_groupBMask_eq hmask (groupPin_eq_some_iff.mp hpin).1] at hpad
    exact hpad.trans hpad'.symm
  · simp only [hg, false_and, if_false] at hpad hpad'
    exact hpad.trans hpad'.symm

/-- Settles O46: every MAP turn brings the end of the job nearer, and no other turn puts it off. -/
theorem startedReconfigurationEnds : Obligations.StartedReconfigurationEnds :=
  ⟨fun s _ _ _ hsched hcount _ hrun => run_ends_job hsched ((mapWork_le s).trans hcount) hrun,
    fun _ h hin _ => job_ends h hin⟩

/-- Settles O59: a block whose HOST keeps to the window goes on, so the turn that is to come comes. -/
theorem turnsAreFair : Obligations.TurnsAreFair := by
  refine ⟨fun s turn later hsched => ⟨turnNow_cons hsched, tookTurn_cons hsched⟩,
    fun s hsched => ⟨turnNow_round hsched, by simp [tookTurn, hsched]⟩, fun s agent h hin hagent => ?_⟩
  obtain ⟨k, u, hk, hfalse | ⟨-, hturn⟩⟩ := reaches_turn hagent (P := fun u => BlockInv u ∧ HostStaysInside u)
    (Q := fun _ => False)
    (fun u ⟨hu, huin⟩ _ => by
      obtain ⟨v, hstep, hv⟩ := step_inside hu huin
      exact ⟨v, hstep, .inl hv⟩)
    ⟨h, hin⟩
  · exact hfalse.elim
  · exact ⟨k, u, hk, hturn⟩

end Sys2Proof.Proofs
end

section
/-! HOST and SEQ turn by turn: the expansions of `send` and `recv` (spec/30_encoding.md R116), the hang on half a pair
(spec/60_exceptions.md R311), and the queue steps in either order (R305). -/

namespace Sys2Proof.Machine

open Sys2Proof.Safety

/-! ### HOST's variables -/

theorem getVar_setVar (x y : HostVar) (v : Word) (s : State) :
    getVar y (setVar x v s) = if y = x then v else getVar y s := by
  cases x <;> cases y <;> rfl

/-- A write of a variable writes the six variables alone. -/
theorem setVar_frame (x : HostVar) (v : Word) (s : State) :
    setVar x v s = { s with
      varT := getVar .varT (setVar x v s), varX := getVar .varX (setVar x v s), varC := getVar .varC (setVar x v s)
      lsDirection := getVar .lsDirection (setVar x v s), lsOutput := getVar .lsOutput (setVar x v s)
      lsInput := getVar .lsInput (setVar x v s) } := by
  cases x <;> rfl

theorem getVal_with_varT (v : HostVal) (w : Word) (prog : List HostOp) (s : State) :
    getVal v { s with varT := w, hostProg := prog } = if v = .var .varT then w else getVal v s := by
  cases v with
  | lit u => rfl
  | var x => cases x <;> rfl

section

variable {s : State} {rest : List HostOp} {later : List Turn}

/-! ### The accesses of the expansions -/

/-- A write of TXF by HOST's program, MAP idle and TXQ with room (R184). -/
theorem hostOp_wrTxf_room {v : HostVal} (hidle : s.mapBusy = none) (hroom : s.txq.length < txqDepth s) :
    hostOp (wrTxf v) rest s = .next { s with txq := s.txq ++ [getVal v s], hostProg := rest } :=
  (hostOp_wrTxf v rest s).trans (hostRun_idle hidle (exec_txfWr_room hidle (Nat.ne_of_lt hroom)))

/-- A read of RXF by HOST's program, MAP idle and a word in RXQ (R186). -/
theorem hostOp_rdRxf_cons {x : HostVar} {word : Word} {more : List Word} (hidle : s.mapBusy = none)
    (hrxq : s.rxq = word :: more) :
    hostOp (rdRxf x) rest s = .next (setVar x word { s with rxq := more, hostProg := rest }) := by
  rw [hostOp_rdRxf, hostRun_idle hidle (exec_rxfRd_cons hidle hrxq), setVar_with_hostProg]

/-! ### The expansions of `send` and `recv` -/

@[simp] theorem statusWord_tookTurn (s : State) : statusWord (tookTurn s) = statusWord s := by
  unfold tookTurn
  split <;> rfl

/-- A poll of STATUS holds while MAP runs (R188 (5)). -/
theorem hostOp_waitStatus_busy {bit : Nat} (hbusy : s.mapBusy ≠ none) :
    hostOp (.waitStatus bit) rest s = .next s := by
  simp [hostOp, exec_access_busy (i := .statusRd .varT) rfl hbusy, mapActive_eq_true.mpr hbusy]

/-- A poll of STATUS reads it into `t` and stays while the bit is 1 (R116). -/
theorem hostOp_waitStatus_set {bit : Nat} (hidle : s.mapBusy = none) (hbit : (statusWord s).getLsbD bit = true) :
    hostOp (.waitStatus bit) rest s = .next { s with varT := statusWord s } := by
  simp [hostOp, exec_statusRd_idle hidle, setVar, hbit]

/-- A poll of STATUS reads it into `t` and goes on where the bit is 0 (R116). -/
theorem hostOp_waitStatus_clear {bit : Nat} (hidle : s.mapBusy = none) (hbit : (statusWord s).getLsbD bit = false) :
    hostOp (.waitStatus bit) rest s = .next { s with varT := statusWord s, hostProg := rest } := by
  simp [hostOp, exec_statusRd_idle hidle, setVar, hbit, mapActive_eq_false.mpr hidle]

theorem tookTurn_with_varT (w : Word) (prog : List HostOp) (s : State) :
    tookTurn { s with varT := w, hostProg := prog } = { tookTurn s with varT := w, hostProg := prog } := by
  unfold tookTurn
  dsimp only
  split <;> rfl

/-- Two HOST turns at a poll whose bit is 0 and one operation after it. -/
theorem run_waitStatus_clear {bit : Nat} {op : HostOp} {t : State} (hturn : turnNow s = .host)
    (hturn' : turnNow (tookTurn s) = .host) (hprog : s.hostProg = .waitStatus bit :: op :: rest)
    (hidle : s.mapBusy = none) (hbit : (statusWord s).getLsbD bit = false)
    (hop : hostOp op rest { tookTurn (tookTurn s) with varT := statusWord s, hostProg := op :: rest } = .next t) :
    Host.Core.run core 2 s = .next t := by
  have hfirst : step s = .next { tookTurn s with varT := statusWord s, hostProg := op :: rest } := by
    rw [step_host_cons hturn hprog, hostOp_waitStatus_clear (by simpa using hidle) (by simpa using hbit),
      statusWord_tookTurn]
  have hsecond : step { tookTurn s with varT := statusWord s, hostProg := op :: rest } = .next t := by
    rw [step_host_cons (hturn' ▸ turnNow_congr rfl rfl) rfl, tookTurn_with_varT, hop]
  exact (run_succ 1 hfirst).trans (run_succ 0 hsecond)

/-- The expansion of `send v` with room in TXQ (R116, R190). -/
theorem run_expandSend {v : HostVal} (hturn : turnNow s = .host) (hturn' : turnNow (tookTurn s) = .host)
    (hprog : s.hostProg = expandSend v ++ rest) (hidle : s.mapBusy = none) (hroom : s.txq.length < txqDepth s) :
    Host.Core.run core 2 s = .next { tookTurn (tookTurn s) with
      hostProg := rest, varT := statusWord s
      txq := s.txq ++ [if v = .var .varT then statusWord s else getVal v s] } := by
  have hbit : (statusWord s).getLsbD 0 = false :=
    (statusFields_txFull ..).trans (txFull_eq_false_iff.mpr (Nat.ne_of_lt hroom))
  refine run_waitStatus_clear hturn hturn' hprog hidle hbit ?_
  rw [hostOp_wrTxf_room (by simpa using hidle) (by simpa [txqDepth] using hroom), getVal_with_varT]
  simp

/-- The expansion of `recv x` with a sample in RXQ (R116, R191). -/
theorem run_expandRecv {x : HostVar} {word : Word} {more : List Word} (hturn : turnNow s = .host)
    (hturn' : turnNow (tookTurn s) = .host) (hprog : s.hostProg = expandRecv x ++ rest) (hidle : s.mapBusy = none)
    (hrxq : s.rxq = word :: more) :
    Host.Core.run core 2 s = .next (setVar x word { tookTurn (tookTurn s) with
      hostProg := rest, varT := statusWord s, rxq := more }) := by
  have hbit : (statusWord s).getLsbD 3 = false := (statusFields_rxEmpty ..).trans (by simp [hrxq])
  refine run_waitStatus_clear hturn hturn' hprog hidle hbit ?_
  exact hostOp_rdRxf_cons (by simpa using hidle) (by simpa using hrxq)

/-! ### Half a pair -/

/-- With half a pair applied and HOST in `recv`, a turn of SEQ, MAP or HOST is used up and no more (R311 (1)). -/
theorem step_halfPair {x : HostVar} {turn : Turn} (hsched : s.sched = turn :: later) (henv : ∀ e, turn ≠ .env e)
    (hhost : s.hostProg = .recv x :: rest) (hidle : s.mapBusy = none) (hrxq : s.rxq = []) (htxq : s.txq = [])
    (hprog : s.seqProg = microprogram) (hpc : s.seqPc = 2) : step s = .next { s with sched := later } := by
  rw [step_cons hsched]
  cases turn with
  | seq => exact seqStep_no_word hprog (congrArg programOp hpc) htxq
  | map => exact congrArg Host.Outcome.next (mapStep_idle hidle)
  | host => exact (hostStep_cons (s := { s with sched := later }) hhost).trans (hostOp_recv_hold (.inr hrxq))
  | env e => exact absurd rfl (henv e)

/-! ### The queue steps in either order -/

theorem step_seq_pull {word : Word} {more : List Word} (hsched : s.sched = .seq :: later) (hen : s.seqEn = true)
    (hrefused : s.refused = false) (hfetch : s.seqProg[s.seqPc.toNat]? = some 0x80A0#16) (htxq : s.txq = word :: more) :
    step s = .next { s with sched := later, osr := word, txq := more, seqPc := s.seqPc + 1 } :=
  (step_cons hsched).trans ((seqStep_fetch (s := { s with sched := later }) hen hrefused hfetch).trans
    (execPull_cons (s := { s with sched := later }) htxq))

theorem step_seq_push (hsched : s.sched = .seq :: later) (hen : s.seqEn = true) (hrefused : s.refused = false)
    (hfetch : s.seqProg[s.seqPc.toNat]? = some 0x8020#16) (hroom : s.rxq.length < rxqDepth s) :
    step s = .next { s with sched := later, rxq := s.rxq ++ [s.isr], isr := 0, seqPc := 0 } :=
  (step_cons hsched).trans ((seqStep_fetch (s := { s with sched := later }) hen hrefused hfetch).trans
    (exec_push_room (s := { s with sched := later }) (Nat.ne_of_lt hroom)))

theorem step_host_wrTxf {v : Word} (hsched : s.sched = .host :: later) (hprog : s.hostProg = wrTxf (.lit v) :: rest)
    (hidle : s.mapBusy = none) (hroom : s.txq.length < txqDepth s) :
    step s = .next { s with sched := later, txq := s.txq ++ [v], hostProg := rest } :=
  (step_cons hsched).trans ((hostStep_cons (s := { s with sched := later }) hprog).trans
    (hostOp_wrTxf_room (s := { s with sched := later }) hidle hroom))

theorem step_host_rdRxf {x : HostVar} {word : Word} {more : List Word} (hsched : s.sched = .host :: later)
    (hprog : s.hostProg = rdRxf x :: rest) (hidle : s.mapBusy = none) (hrxq : s.rxq = word :: more) :
    step s = .next (setVar x word { s with sched := later, rxq := more, hostProg := rest }) :=
  (step_cons hsched).trans ((hostStep_cons (s := { s with sched := later }) hprog).trans
    (hostOp_rdRxf_cons (s := { s with sched := later }) hidle hrxq))

end

end Sys2Proof.Machine

namespace Sys2Proof.Proofs

open Sys2Proof.Machine

/-- Settles O15: each variable has its own field. -/
theorem readDestinationIsWrittenAlone : Obligations.ReadDestinationIsWrittenAlone := fun v s =>
  ⟨fun x y => getVar_setVar x y v s, fun x => setVar_frame x v s⟩

/-- Settles O48: the poll's three cases, and in each expansion the poll falls through to the access. -/
theorem sendAndRecvExpansionsAgree : Obligations.SendAndRecvExpansionsAgree := by
  refine fun s rest hturn => ⟨fun bit hprog => ?poll,
    fun v hturn' hprog hidle hroom => run_expandSend hturn hturn' hprog hidle hroom,
    fun x word more hturn' hprog hidle hrxq => run_expandRecv hturn hturn' hprog hidle hrxq⟩
  case poll =>
    rw [step_host_cons hturn hprog]
    refine ⟨fun hbusy => hostOp_waitStatus_busy (by simpa using hbusy), fun hidle hbit => ?_, fun hidle hbit => ?_⟩
    · rw [hostOp_waitStatus_set (by simpa using hidle) (by simpa using hbit), statusWord_tookTurn]
    · rw [hostOp_waitStatus_clear (by simpa using hidle) (by simpa using hbit), statusWord_tookTurn]

/-- Settles O49, by induction on the turns: each is used up and the state it leaves is as stuck as before. -/
theorem halfAPairHangs : Obligations.HalfAPairHangs := by
  intro s x rest turns
  induction turns generalizing s with
  | nil =>
    intro later hsched
    subst hsched
    exact fun _ _ _ _ _ _ _ => run_zero s
  | cons turn turns ih =>
    intro later hsched henv hhost hidle hrxq htxq hprog hpc
    have hstep := step_halfPair (later := turns ++ later) hsched (henv turn List.mem_cons_self) hhost hidle hrxq htxq
      hprog hpc
    have hrun := ih { s with sched := turns ++ later } later rfl (fun u hu => henv u (List.mem_cons_of_mem _ hu)) hhost
      hidle hrxq htxq hprog hpc
    exact (run_succ _ hstep).trans hrun

/-- Settles O50: the two steps write at the two ends of one queue, which holds a word between them. -/
theorem queueStepsCommute : Obligations.QueueStepsCommute := by
  refine fun s later rest hen hrefused hidle => ⟨fun w v more hfetch htxq hroom hprog => ?tx,
    fun x w more hfetch hrxq hroom hprog => ?rx⟩
  case tx =>
    have hroom' : more.length < txqDepth s := by
      rw [htxq, List.length_cons] at hroom
      omega
    refine ⟨{ s with sched := later, osr := w, txq := more ++ [v], seqPc := s.seqPc + 1, hostProg := rest },
      rfl, rfl, ?_, ?_⟩
    · have hpull := step_seq_pull (s := { s with sched := .seq :: .host :: later }) rfl hen hrefused hfetch htxq
      have hwrite := step_host_wrTxf (s := { s with
        sched := .host :: later, osr := w, txq := more, seqPc := s.seqPc + 1 }) rfl hprog hidle hroom'
      exact (run_succ 1 hpull).trans (run_succ 0 hwrite)
    · have hwrite := step_host_wrTxf (s := { s with sched := .host :: .seq :: later }) rfl hprog hidle hroom
      have hpull := step_seq_pull (s := { s with
        sched := .seq :: later, txq := s.txq ++ [v], hostProg := rest }) rfl hen hrefused hfetch
        (congrArg (· ++ [v]) htxq)
      exact (run_succ 1 hwrite).trans (run_succ 0 hpull)
  case rx =>
    have hroom' : more.length < rxqDepth s := by
      rw [hrxq, List.length_cons] at hroom
      omega
    refine ⟨setVar x w { s with
      sched := later, rxq := more ++ [s.isr], isr := 0, seqPc := 0, hostProg := rest }, ?_, setVar_rxq .., ?_, ?_⟩
    · rw [getVar_setVar, if_pos rfl]
    · have hpush := step_seq_push (s := { s with sched := .seq :: .host :: later }) rfl hen hrefused hfetch hroom
      have hread := step_host_rdRxf (s := { s with
        sched := .host :: later, rxq := s.rxq ++ [s.isr], isr := 0, seqPc := 0 }) rfl hprog hidle
        (congrArg (· ++ [s.isr]) hrxq)
      exact (run_succ 1 hpush).trans (run_succ 0 hread)
    · have hread := step_host_rdRxf (s := { s with sched := .host :: .seq :: later }) rfl hprog hidle hrxq
      have hpush := step_seq_push (later := later) (s := setVar x w { s with
        sched := .seq :: later, rxq := more, hostProg := rest }) (by simp) (by simpa using hen)
        (by simpa using hrefused) (by simpa using hfetch) (by simpa [rxqDepth] using hroom')
      refine (run_succ 1 hread).trans ((run_succ 0 hpush).trans ?_)
      cases x <;> rfl

end Sys2Proof.Proofs
end

section
/-! The encodings (spec/30_encoding.md R102 to R107): what the decoders admit, and the encoder that inverts them. -/

namespace Sys2Proof

/-! ### Micro-operation words -/

/-- A word outside the five is refused, and with itself (R104). -/
theorem decodeMicro_eq_error {w : BitVec 16} (h : w ∉ [0x80A0#16, 0x6080#16, 0x6000#16, 0x4000#16, 0x8020#16]) :
    decodeMicro w = .error w := by
  simp only [List.mem_cons, List.not_mem_nil, or_false, not_or] at h
  obtain ⟨hpull, hdirs, hpins, hin, hpush⟩ := h
  simp only [decodeMicro, hpull, hdirs, hpins, hin, hpush, if_false]

theorem encode_of_decodeMicro {w : BitVec 16} {i : Instr} (h : decodeMicro w = .ok i) : encode i = .micro w := by
  by_cases hw : w ∈ [0x80A0#16, 0x6080#16, 0x6000#16, 0x4000#16, 0x8020#16]
  · simp only [List.mem_cons, List.not_mem_nil, or_false] at hw
    rcases hw with rfl | rfl | rfl | rfl | rfl <;> cases h <;> rfl
  · rw [decodeMicro_eq_error hw] at h
    cases h

/-! ### Access codes -/

/-- The offset of a register (R51). -/
def regOffset (r : Reg) : BitVec 12 :=
  match r with
  | .ctrl => 0x000#12
  | .status => 0x004#12
  | .txf => 0x008#12
  | .rxf => 0x00C#12
  | .pullA => 0x010#12
  | .pullB => 0x014#12
  | .pullChg => 0x018#12

theorem toNat_regOffset_of_regAt {off : Nat} {r : Reg} (h : regAt off = some r) : (regOffset r).toNat = off := by
  unfold regAt at h
  split at h <;> cases h <;> rfl

theorem toNat_regOffset_lt (r : Reg) : (regOffset r).toNat < 0x1C := by
  cases r <;> decide

/-- Beyond the last register nothing is at an offset (R58). -/
theorem regAt_eq_none {off : Nat} (h : 0x1C ≤ off) : regAt off = none := by
  cases hreg : regAt off with
  | none => rfl
  | some r =>
    have hoff := toNat_regOffset_of_regAt hreg
    have hlt := toNat_regOffset_lt r
    omega

/-- The encoding of an admitted read has the register's offset and W = 0 (R107). -/
theorem encode_of_readOf {r : Reg} {x : HostVar} {i : Instr} (h : readOf r x = .ok i) :
    ∃ (x' : HostVar) (v' : Word), encode i = .access (accessCode false (regOffset r)) x' v' := by
  cases r <;> cases h <;> exact ⟨_, _, rfl⟩

/-- The encoding of an admitted write has the register's offset and W = 1 (R107). -/
theorem encode_of_writeOf {r : Reg} {v : Word} {i : Instr} (h : writeOf r v = .ok i) :
    ∃ (x' : HostVar) (v' : Word), encode i = .access (accessCode true (regOffset r)) x' v' := by
  cases r <;> cases h <;> exact ⟨_, _, rfl⟩

theorem encode_of_decodeBus {write : Bool} {off width : Nat} {x : HostVar} {v : Word} {i : Instr}
    (h : decodeBus write off width x v = .ok i) :
    ∃ (r : Reg) (x' : HostVar) (v' : Word), (regOffset r).toNat = off ∧
      encode i = .access (accessCode write (regOffset r)) x' v' := by
  unfold decodeBus at h
  split at h
  · cases h
  split at h
  · cases h
  split at h
  · cases h
  · rename_i r hreg
    cases write with
    | false =>
      obtain ⟨x', v', henc⟩ := encode_of_readOf h
      exact ⟨r, x', v', toNat_regOffset_of_regAt hreg, henc⟩
    | true =>
      obtain ⟨x', v', henc⟩ := encode_of_writeOf h
      exact ⟨r, x', v', toNat_regOffset_of_regAt hreg, henc⟩

/-- A code is made of its two fields (R107). -/
theorem accessCode_fields : ∀ code : BitVec 13, accessCode (code.getLsbD 12) (code.extractLsb' 0 12) = code := by
  intro code
  refine BitVec.eq_of_getLsbD_eq fun p hp => ?_
  rw [accessCode, BitVec.getLsbD_append, BitVec.getLsbD_extractLsb', Nat.zero_add]
  by_cases hlow : p < 12
  · simp [hlow]
  · obtain rfl : p = 12 := by omega
    simp

theorem encode_of_decodeAccess {code : BitVec 13} {x : HostVar} {v : Word} {i : Instr}
    (h : decodeAccess code x v = .ok i) : ∃ (x' : HostVar) (v' : Word), encode i = .access code x' v' := by
  obtain ⟨r, x', v', hoff, henc⟩ := encode_of_decodeBus h
  rw [BitVec.eq_of_toNat_eq hoff, accessCode_fields] at henc
  exact ⟨x', v', henc⟩

/-- The instruction of a code `{W, OFF}` is the one of the bus access at that offset (R74, R107). -/
theorem decodeAccess_ofBool_append {write : Bool} {off : Nat} (hoff : off < 2 ^ 12) (x : HostVar) (v : Word) :
    decodeAccess (BitVec.ofBool write ++ BitVec.ofNat 12 off) x v = decodeBus write off 32 x v := by
  have hwrite : (BitVec.ofBool write ++ BitVec.ofNat 12 off).getLsbD 12 = write := by
    rw [BitVec.getLsbD_append]
    simp
  have hlow : (BitVec.ofBool write ++ BitVec.ofNat 12 off).extractLsb' 0 12 = BitVec.ofNat 12 off :=
    BitVec.extractLsb'_append_eq_right
  rw [decodeAccess, hwrite, hlow, BitVec.toNat_ofNat, Nat.mod_eq_of_lt hoff]

/-! ### The checks of a bus access, in order (R188) -/

section

variable {write : Bool} {off width : Nat} (x : HostVar) (v : Word)

theorem decodeBus_badWidth (h : width ≠ 32) : decodeBus write off width x v = .error .badWidth :=
  if_pos h

theorem decodeBus_misaligned (h : off % 4 ≠ 0) : decodeBus write off 32 x v = .error .misalignedAccess :=
  (if_neg (by decide)).trans (if_pos h)

theorem decodeBus_reserved (h : off % 4 = 0) (hoff : 0x1C ≤ off) :
    decodeBus write off 32 x v = .error .reservedOffset := by
  simp [decodeBus, h, regAt_eq_none hoff]

theorem decodeBus_readOnly (h : off ∈ [0x04, 0x0C, 0x18]) :
    decodeBus true off 32 x v = .error .writeReadOnly := by
  simp only [List.mem_cons, List.not_mem_nil, or_false] at h
  rcases h with rfl | rfl | rfl <;> rfl

theorem decodeBus_writeOnly : decodeBus false 0x08 32 x v = .error .readWriteOnly := rfl

theorem exists_regAt (halign : off % 4 = 0) (hoff : off < 0x1C) : ∃ r, regAt off = some r := by
  have hoffset : off = 0 ∨ off = 4 ∨ off = 8 ∨ off = 12 ∨ off = 16 ∨ off = 20 ∨ off = 24 := by omega
  rcases hoffset with rfl | rfl | rfl | rfl | rfl | rfl | rfl <;> exact ⟨_, rfl⟩

/-- An access that passes the checks is one of the ten of R107. -/
theorem decodeBus_admitted (halign : off % 4 = 0) (hoff : off < 0x1C)
    (hwrite : write = true → off ∉ [0x04, 0x0C, 0x18]) (hread : write = false → off ≠ 0x08) : ∃ i, decodeBus write off 32 x v = .ok i := by
  obtain ⟨r, hreg⟩ := exists_regAt halign hoff
  have hoffset := toNat_regOffset_of_regAt hreg
  cases write with
  | false =>
    have hdec : decodeBus false off 32 x v = readOf r x := by simp [decodeBus, halign, hreg]
    cases r with
    | txf => exact absurd hoffset.symm (hread rfl)
    | _ => exact ⟨_, hdec⟩
  | true =>
    have hdec : decodeBus true off 32 x v = writeOf r v := by simp [decodeBus, halign, hreg]
    cases r with
    | status | rxf | pullChg => exact absurd (by simp [← hoffset, regOffset]) (hwrite rfl)
    | _ => exact ⟨_, hdec⟩

end

end Sys2Proof

namespace Sys2Proof.Proofs

open Sys2Proof.Machine

/-- Settles O24: each word and code is a literal of the decoders' tables. -/
theorem tableWordsDecode : Obligations.TableWordsDecode :=
  ⟨rfl, rfl, rfl, rfl, rfl, rfl⟩

/-- Settles O25: one word or code for each constructor, with its operands beside it. -/
theorem decodeOfEncode : Obligations.DecodeOfEncode := by
  intro i
  cases i <;> rfl

/-- Settles O26: a word is one of five literals, and a code is made of the direction and the offset it decodes by. -/
theorem admittedWordsAreTheEncodings : Obligations.AdmittedWordsAreTheEncodings :=
  ⟨fun _ _ => encode_of_decodeMicro, fun _ _ _ _ => encode_of_decodeAccess⟩

end Sys2Proof.Proofs
end

section
/-! One turn of each agent: the access that HOST's program stands at (spec/41_channel_interface.md R188, R189), the word
that SEQ fetches (spec/40_sequencer.md R140), the changes of ENV (spec/10_state.md R42), and HOST's protocol operations
(spec/43_host_protocol.md R251 to R263). -/

namespace Sys2Proof.Machine

section

variable {s : State} {rest : List HostOp}

/-! ### Accesses of HOST's program -/

/-- A refused access sets the mark and its reason, and HOST goes on (R189). -/
theorem step_host_refused {d : Except RefuseReason Instr} {r : RefuseReason} (hd : d = .error r)
    (hstep : step s = hostAccess d rest (tookTurn s)) :
    step s = .next { refuse r (tookTurn s) with hostProg := rest } := by
  subst hd
  exact hstep

/-- An admitted access runs while MAP is idle, and holds while it runs (R188 (5)). -/
theorem step_host_admitted {d : Except RefuseReason Instr} {i : Instr} (hd : d = .ok i) (hi : isAccess i = true)
    (hstep : step s = hostAccess d rest (tookTurn s)) :
    (s.mapBusy ≠ none → step s = .next (tookTurn s)) ∧
    (s.mapBusy = none → ∃ t : State, exec i (tookTurn s) = .next t ∧ step s = .next { t with hostProg := rest }) := by
  subst hd
  refine ⟨fun hbusy => hstep.trans (hostRun_busy hi (by simpa using hbusy)), fun hidle => ?_⟩
  obtain ⟨t, ht⟩ := exec_next i (tookTurn s)
  exact ⟨t, ht, hstep.trans (hostRun_idle (by simpa using hidle) ht)⟩

theorem step_host_access {code : BitVec 13} {x : HostVar} {v : HostVal} (hturn : turnNow s = .host)
    (hprog : s.hostProg = .access code x v :: rest) :
    step s = hostAccess (decodeAccess code x (getVal v s)) rest (tookTurn s) := by
  rw [step_host_cons hturn hprog, hostOp, getVal_tookTurn]

/-- A bus access at or above the base is the one at its offset of the window (R14). -/
theorem step_host_bus {write : Bool} {off width : Nat} {x : HostVar} {v : HostVal} (hturn : turnNow s = .host)
    (hprog : s.hostProg = .bus write (4 * s.params.blockBaseWord + off) width x v :: rest) :
    step s = hostAccess (decodeBus write off width x (getVal v s)) rest (tookTurn s) := by
  have hbase : blockBase (tookTurn s) = 4 * s.params.blockBaseWord := by simp [blockBase]
  rw [step_host_cons hturn hprog, hostOp, getVal_tookTurn, hbase, if_neg (by omega), Nat.add_sub_cancel_left]

/-! ### The packet that waits -/

theorem pulledReport_of_none (h : s.usbOut = none) : pulledReport s = none := by
  simp [pulledReport, h]

theorem pulledReport_of_short {packet : List Byte} (h : s.usbOut = some packet) (hlen : packet.length < 16) :
    pulledReport s = none := by
  simp [pulledReport, h, reportOf, hlen]

theorem pulledReport_of_long {packet : List Byte} (h : s.usbOut = some packet) (hlen : 16 ≤ packet.length) :
    pulledReport s = some (Vector.ofFn fun i : Fin 16 => packet.getD i.val 0) := by
  simp [pulledReport, h, reportOf, hlen]

/-- A report is the first 16 bytes of its packet (R252). -/
theorem toList_ofFn_getD {packet : List Byte} (hlen : 16 ≤ packet.length) :
    (Vector.ofFn fun i : Fin 16 => packet.getD i.val 0).toList = packet.take 16 := by
  refine List.ext_getElem (by simp [hlen]) fun n hn _ => ?_
  have hlt : n < packet.length := by
    simp at hn
    omega
  simp [hlt]

theorem with_usbOut_of_none (h : s.usbOut = none) : { s with usbOut := none } = s := by
  rw [← h]

end

/-! ### ENV -/

section

variable {change : PinMap (Option Drive)} {s : State} {k : Pin}

theorem drivenExt_getElem : (drivenExt change s)[k] = (change[k]).getD s.ext[k] := by
  simp [drivenExt]

theorem envDrive_level_same (h : (drivenExt change s)[k] = s.ext[k]) : (envDrive change s).level[k] = s.level[k] := by
  simp only [Fin.getElem_fin] at h
  simp [envDrive, h]

/-- A pin whose drive changed is resolved under the new drive (R42, R152). -/
theorem envDrive_level_changed (h : (drivenExt change s)[k] ≠ s.ext[k]) :
    (envDrive change s).level[k] =
      resolve (s.pindir.getLsbD (physPin k)) (s.pinout.getLsbD (physPin k)) (drivenExt change s)[k] s.padPull[k]
        s.level[k] ((Config.draw s.draws).getLsbD (physPin k)) := by
  simp only [Fin.getElem_fin, ne_eq] at h
  simp [envDrive, h, resolvePin, drawNow]

end

end Sys2Proof.Machine

namespace Sys2Proof.Proofs

open Sys2Proof.Machine

/-- Settles O3: `exec_outPins` names the levels that the statement reads off the next state. -/
theorem outPinsAppliesTheWord : Obligations.OutPinsAppliesTheWord := by
  refine ⟨⟨rfl, rfl⟩, fun s => ?_⟩
  obtain ⟨level, hexec, hlevel⟩ := exec_outPins s
  exact ⟨_, hexec, rfl, hlevel⟩

/-- Settles O16: an admitted code decodes to an access of the window. -/
theorem everyAccessHoldsWhileMapRuns : Obligations.EveryAccessHoldsWhileMapRuns := fun _ _ _ _ _ hdec hbusy =>
  exec_access_busy (isAccess_of_decodeBus hdec) hbusy

/-- Settles O17: the decoder makes the checks, and what it admits holds or runs. -/
theorem busAccessIsCheckedInOrder : Obligations.BusAccessIsCheckedInOrder := by
  intro s write off width x v rest hturn hprog
  have hstep := step_host_bus hturn hprog
  refine ⟨fun hwidth => step_host_refused (decodeBus_badWidth x _ hwidth) hstep, ?misaligned, ?reserved, ?readOnly,
    ?writeOnly, ?admitted⟩
  all_goals rintro rfl
  case misaligned => exact fun halign => step_host_refused (decodeBus_misaligned x _ halign) hstep
  case reserved => exact fun halign hoff => step_host_refused (decodeBus_reserved x _ halign hoff) hstep
  case readOnly =>
    rintro rfl hoff
    exact step_host_refused (decodeBus_readOnly x _ hoff) hstep
  case writeOnly =>
    rintro rfl rfl
    exact step_host_refused (decodeBus_writeOnly x _) hstep
  case admitted =>
    intro halign hoff hwrite hread
    obtain ⟨i, hdec⟩ := decodeBus_admitted x (getVal v s) halign hoff hwrite hread
    exact ⟨i, (decodeAccess_ofBool_append (by omega) x _).trans hdec,
      step_host_admitted hdec (isAccess_of_decodeBus hdec) hstep⟩

/-- Settles O18: the refusal is the decoder's, before any instruction runs. -/
theorem refusedAccessChangesNothingElse : Obligations.RefusedAccessChangesNothingElse := by
  intro s code x v rest r hturn hprog hdec
  rw [step_host_refused hdec (step_host_access hturn hprog)]
  simp [refuse]

/-- Settles O19: the turn used up leaves the enable, the program and its index. -/
theorem seqStepRunsTheDecodedWord : Obligations.SeqStepRunsTheDecodedWord := by
  intro s word i hturn hen hrefused hfetch hdec
  rw [step_seq hturn, seqStep_fetch (by simpa using hen) (by simpa using hrefused) (by simpa using hfetch), hdec]

/-- Settles O20: SEQ is disabled, or what it fetched is outside the five words. -/
theorem seqWithoutAStepOrAnAdmittedWord : Obligations.SeqWithoutAStepOrAnAdmittedWord := by
  intro s hturn
  rw [step_seq hturn]
  refine ⟨fun h => seqStep_disabled (by simpa using h), fun word hen hrefused hfetch hword => ?_⟩
  rw [seqStep_fetch (by simpa using hen) (by simpa using hrefused) (by simpa using hfetch), decodeMicro_eq_error hword]
  simp [refuse]

/-- Settles O21: an access by code is admitted by its decoder, and then holds or runs. -/
theorem hostStepRunsTheDecodedAccess : Obligations.HostStepRunsTheDecodedAccess := by
  intro s code x v rest i hturn hprog hdec
  exact (step_host_admitted hdec (isAccess_of_decodeBus hdec) (step_host_access hturn hprog)).symm

/-- Settles O23: pin by pin, a drive that is as before leaves the level, and a new one resolves it. -/
theorem envChangesDriveAndLevelsOnly : Obligations.EnvChangesDriveAndLevelsOnly := by
  refine fun s change hturn => ⟨_, step_env hturn, rfl, fun k => ?_⟩
  have hext : (envStep (.drive change) (tookTurn s)).ext[k] = (change[k]).getD s.ext[k] := by
    have hdriven := drivenExt_getElem (change := change) (s := tookTurn s) (k := k)
    rwa [tookTurn_ext] at hdriven
  refine ⟨fun hnone => by rw [hext, hnone]; rfl, fun e hsome => by rw [hext, hsome]; rfl, fun hsame => ?_,
    fun hchanged => ?_⟩
  · have hlevel := envDrive_level_same (change := change) (s := tookTurn s) (k := k)
      (by rw [tookTurn_ext]; exact hsame)
    rwa [tookTurn_level] at hlevel
  · have hlevel := envDrive_level_changed (change := change) (s := tookTurn s) (k := k)
      (by rw [tookTurn_ext]; exact hchanged)
    rw [tookTurn_pindir, tookTurn_pinout, tookTurn_padPull, tookTurn_level, tookTurn_draws] at hlevel
    exact hlevel

/-- Settles O53: both words are 0 at reset, so a write of 0 only clears a flag that is clear. -/
theorem zeroPullWordAfterResetIsNotApplied : Obligations.ZeroPullWordAfterResetIsNotApplied :=
  ⟨rfl, rfl, reset_padPull_getElem, exec_pullAWr_equal (s := State.reset) rfl,
    exec_pullBWr_equal (s := State.reset) rfl⟩

/-- Settles O56: what waits is no report unless it has 16 bytes. -/
theorem shortPacketIsNoReport : Obligations.ShortPacketIsNoReport := by
  refine fun s => ⟨fun packet hturn => step_env hturn, fun rest hturn hprog => ?_⟩
  have hstep := step_host_cons hturn hprog
  have husb := tookTurn_usbOut s
  refine ⟨fun hnone => ?_, fun packet hsome => ⟨fun hlen => ?_, fun hlen => ⟨_, toList_ofFn_getD hlen, ?_⟩⟩⟩
  · rw [hnone] at husb
    rw [hstep, hostOp_tryPullOutput_none (pulledReport_of_none husb)]
    conv_rhs => rw [← with_usbOut_of_none husb]
  · exact hstep.trans (hostOp_tryPullOutput_none (pulledReport_of_short (husb.trans hsome) hlen))
  · exact hstep.trans (hostOp_tryPullOutput_some (pulledReport_of_long (husb.trans hsome) hlen))

/-- Settles O58: each clause is one operation of HOST or of ENV, run in the state with the turn used up. -/
theorem inputReportNewestWins : Obligations.InputReportNewestWins := by
  refine fun s => ⟨fun rest hturn hprog => ?push, fun rest hturn hprog => step_host_cons hturn hprog,
    fun hturn hprog => ?top, fun hturn => ?fetch⟩
  case push =>
    rw [step_host_cons hturn hprog, hostOp]
    simp [snapshotInput]
  case top => exact (step_host hturn).trans (hostStep_top ((tookTurn_hostProg s).trans hprog))
  case fetch =>
    rw [step_env hturn, envStep, envFetch]
    simp

end Sys2Proof.Proofs
end
